-- ==== Sys2Proof/Word.lean ====
section
/-! DEFINITION. The word types of BXCORE and their plainest arithmetic (00_scope.md R10, R11). -/

namespace Sys2Proof

/-- One byte of IN, OUT or RING (20_memory.md R60 to R62). -/
abbrev Byte := BitVec 8

/-- A 32-bit job register, ADDRBITS = 32 (00_scope.md R8). -/
abbrev Word := BitVec 32

end Sys2Proof
end

