-- ==== Sys2Proof/Config.lean ====
section
/-! DEFINITION. The parameters of the block: those the spec fixes (00_scope.md R6, R7, R8), those it leaves
open (R9), and the free values. -/

namespace Sys2Proof

/-- NT, the symbols of the T alphabet (R6). -/
@[simp] abbrev Config.symbolsT : Nat := 19
/-- NC, the symbols of the C alphabet (R6). -/
@[simp] abbrev Config.symbolsC : Nat := 510
/-- NP, the symbols of the P alphabet (R6). -/
@[simp] abbrev Config.symbolsP : Nat := 14
/-- MAXLEN, the largest legal code length (R6). -/
@[simp] abbrev Config.maxLen : Nat := 16
/-- CODESPACE, the full code space (R6). -/
@[simp] abbrev Config.codeSpace : Nat := 65536
/-- PEEKMAX, the largest n of peek(n) and consume(n) (R6). -/
@[simp] abbrev Config.peekMax : Nat := 16
/-- BLKBITS, the width of the block-symbol count (R6). -/
@[simp] abbrev Config.blockBits : Nat := 16
/-- TBIT, the width of the T section's count field (R6, R8). -/
@[simp] abbrev Config.countBitsT : Nat := 5
/-- CBIT, the width of the C section's count field and of the longer zero-run field (R8). -/
@[simp] abbrev Config.countBitsC : Nat := 9
/-- PBIT, the width of the P section's count field (R6, R8). -/
@[simp] abbrev Config.countBitsP : Nat := 4
/-- TB_T, TB_C and TB_P, the table-bits widths (R8). -/
@[simp] abbrev Config.tableBitsT : Nat := 8
@[simp] abbrev Config.tableBitsC : Nat := 12
@[simp] abbrev Config.tableBitsP : Nat := 8
/-- TSPECIAL, the escape index of the T alphabet (R8). -/
@[simp] abbrev Config.escapeIndex : Nat := 3
/-- TSKIPBITS, the width of the zero-run field after the escape index (R6). -/
@[simp] abbrev Config.skipBits : Nat := 2
/-- LENCODEBITS, the base width of one T or P length code (R8). -/
@[simp] abbrev Config.lengthCodeBits : Nat := 3
/-- ZRUN4BITS, ZRUN4BIAS and ZRUN9BIAS (R6, R8). -/
@[simp] abbrev Config.shortRunBits : Nat := 4
@[simp] abbrev Config.shortRunBias : Nat := 3
@[simp] abbrev Config.longRunBias : Nat := 20
/-- LITLIMIT: C symbols below it are literals (R6). -/
@[simp] abbrev Config.litLimit : Nat := 256
/-- THRESHOLD: match length = symbol - 256 + 3 (R6). -/
@[simp] abbrev Config.threshold : Nat := 3
/-- RINGSIZE, RINGBIAS and LZLENBIAS of the LZSS decoder (R6). -/
@[simp] abbrev Config.ringSize : Nat := 4096
@[simp] abbrev Config.ringBias : BitVec 12 := 0xFEE#12
@[simp] abbrev Config.pairLenBias : Nat := 3
/-- CTRLBITS, the decision bits of one LZSS control byte (R6). -/
@[simp] abbrev Config.controlBits : BitVec 4 := 8#4

/-- The two CODEC values that select a decoder (R8; 45_host_commands.md R312). -/
@[simp] abbrev Config.codecLzss : BitVec 3 := 3#3
@[simp] abbrev Config.codecLh5 : BitVec 3 := 5#3

/-- LZSS_EOF_POLICY (R9): what input exhaustion at an LZSS token boundary does. `finish` is the spec's `end`. -/
inductive EofPolicy where
  | fault
  | finish
  deriving DecidableEq, Repr

/-- The parameters the spec leaves OPEN, "the model takes each as an argument" (R9). They are carried in State, where
no step writes them, so that every statement about every state holds for every value of them (log 1). -/
structure Params where
  /-- LZSS_RING_FILL: `none`, or the byte every ring cell holds at job start. -/
  ringFill : Option Byte
  /-- LZSS_EOF_POLICY. -/
  eofPolicy : EofPolicy
  /-- LZSS_FLUSH_CHUNK, a positive integer "not observable in this spec's interface": no rule reads it. -/
  flushChunk : Nat
  deriving DecidableEq, Repr

/-- The defaults R9 recommends; for LZSS_FLUSH_CHUNK it says "any", and 1 is taken (DESIGN CHOICE, log 1). -/
def Params.default : Params := { ringFill := none, eofPolicy := .fault, flushChunk := 1 }

/-- FREE VALUE (safe): what a host read returns where 45_host_commands.md R318 says it is unspecified (log 9), and the
symbol HT.DECODE returns where the spec states none (log 23). The argument is State's counter freeIx, so that no two
such values need agree. -/
opaque Config.unspecified : Nat → Nat

end Sys2Proof
end

