-- ==== Sys2Proof/Syntax.lean ====
section
/-! DEFINITION. The operations of the block as syntax: one constructor per mnemonic of spec/opcode_table.json
(30_encoding.md R90, R126), the bit fields of the two stream formats (R93 to R99, R111), and the assembler notation
of R125. -/

namespace Sys2Proof

/-- The three alphabets, each with its table unit X in {T, C, P} (10_state.md R28). -/
inductive Alphabet where
  | t
  | c
  | p
  deriving DecidableEq, Repr

/-- The operations of 30_encoding.md R90. Only the operands the spec names are arguments: a stream operation has
"Operands: none" and reads its fields at the cursor. The twelve rows of LC.LEN are forms of one operation (R95). -/
inductive Instr where
  /-- BR.INIT (40_bitreader.md R131). -/
  | brInit
  /-- BR.PEEK n, 0 <= n <= 16 (40_bitreader.md R132). -/
  | brPeek (n : Nat)
  /-- BR.CONSUME n, 0 <= n <= 16 (40_bitreader.md R133). -/
  | brConsume (n : Nat)
  /-- BR.GET n, 0 <= n <= 16 (40_bitreader.md R134). -/
  | brGet (n : Nat)
  /-- HT.BUILD X (41_huffman_table.md R155). -/
  | htBuild (x : Alphabet)
  /-- HT.CONST X, c with c the TC, CC or PC field (41_huffman_table.md R165). -/
  | htConst (x : Alphabet) (c : Nat)
  /-- HT.DECODE X (41_huffman_table.md R170). -/
  | htDecode (x : Alphabet)
  /-- LH5.HDR (42_lh5_block_header.md R192). -/
  | lh5Hdr
  /-- LH5.BLKCNT (42_lh5_block_header.md R193). -/
  | lh5Blkcnt
  /-- LH5.TLEN (42_lh5_block_header.md R196). -/
  | lh5Tlen
  /-- LC.LEN, all forms (42_lh5_block_header.md R198). -/
  | lcLen
  /-- LC.TSKIP (42_lh5_block_header.md R199). -/
  | lcTskip
  /-- LH5.CLEN (42_lh5_block_header.md R205). -/
  | lh5Clen
  /-- CL.ZERO1, T symbol 0 (42_lh5_block_header.md R207). -/
  | clZero1
  /-- CL.ZRUN4, T symbol 1 (42_lh5_block_header.md R208). -/
  | clZrun4
  /-- CL.ZRUN9, T symbol 2 (42_lh5_block_header.md R209). -/
  | clZrun9
  /-- CL.LEN, T symbol t in 3..18 (42_lh5_block_header.md R210). -/
  | clLen (t : Nat)
  /-- LH5.PLEN (42_lh5_block_header.md R214). -/
  | lh5Plen
  /-- LH5.SYM (43_lh5_streaming.md R232). -/
  | lh5Sym
  /-- LH5.LIT(c), C symbol 0..255 (43_lh5_streaming.md R234). -/
  | lh5Lit (c : Nat)
  /-- LH5.MATCH(c), C symbol 256..509 (43_lh5_streaming.md R238). -/
  | lh5Match (c : Nat)
  /-- LH5.DIST (43_lh5_streaming.md R239). -/
  | lh5Dist
  /-- LZSS.CTRL (44_lzss.md R274). -/
  | lzssCtrl
  /-- LZSS.LIT (44_lzss.md R277). -/
  | lzssLit
  /-- LZSS.MATCH (44_lzss.md R283). -/
  | lzssMatch
  /-- CMD.RESET (45_host_commands.md R316). -/
  | cmdReset
  /-- CMD.START (45_host_commands.md R314). -/
  | cmdStart
  /-- CMD.ABORT (45_host_commands.md R317). -/
  | cmdAbort
  deriving DecidableEq, Repr

/-- Where in the grammar of the two streams the decoder stands (30_encoding.md R91, R93 to R99, R110). In the last four
places a value selects the operation (R126): the T symbol, the C symbol, or the decision bit; in the others the place
alone does. -/
inductive Slot where
  | header
  | blockCount
  | tSection
  | lengthCode
  | tSkip
  | cSection
  | pSection
  | symbol
  | distance
  | control
  | cItem
  | cSymbol
  | token
  deriving DecidableEq, Repr

/-- What selects an operation: the place in the grammar and, where R126 says so, the selecting value. -/
structure Selector where
  slot : Slot
  value : Nat
  deriving DecidableEq, Repr

/-- Why a selector names no operation. -/
inductive DecodeError where
  /-- No T symbol above 18 exists (42_lh5_block_header.md R212(c)). -/
  | noSuchTSymbol
  /-- No C symbol above 509 exists (30_encoding.md R120). -/
  | noSuchCSymbol
  /-- A decision bit is 0 or 1. -/
  | notADecisionBit
  deriving DecidableEq, Repr

/-- The kinds of bit field of the two formats. -/
inductive FieldKind where
  | blockCount
  | tCount
  | tSymbol
  | lengthCode
  | tSkip
  | cCount
  | cSymbol
  | shortRun
  | longRun
  | pCount
  | pSymbol
  | extra (p : Nat)
  | control
  | literal
  | pair
  deriving DecidableEq, Repr

/-- The bit fields of the two formats with their values (R93 to R99, R111). A Huffman code is no field here: its bits
depend on the table in force (R102). -/
inductive StreamField where
  /-- BLKCNT. -/
  | blockCount (k : BitVec 16)
  /-- TN and TC. -/
  | tCount (n : BitVec 5)
  | tSymbol (c : BitVec 5)
  /-- One LC.LEN length code of value l. -/
  | lengthCode (l : Nat)
  /-- TSKIP. -/
  | tSkip (z : BitVec 2)
  /-- CN and CC. -/
  | cCount (n : BitVec 9)
  | cSymbol (c : BitVec 9)
  /-- The fields of CL.ZRUN4 and CL.ZRUN9. -/
  | shortRun (f : BitVec 4)
  | longRun (f : BitVec 9)
  /-- PN and PC. -/
  | pCount (n : BitVec 4)
  | pSymbol (c : BitVec 4)
  /-- PEXTRA, the p - 1 extra bits of distance code p >= 2. -/
  | extra (p : Nat) (e : Nat)
  /-- An LZSS control byte. -/
  | control (d : BitVec 8)
  /-- An LZSS literal byte. -/
  | literal (v : BitVec 8)
  /-- An LZSS pair: the offset field F and the length field LF. -/
  | pair (f : BitVec 12) (lf : BitVec 4)
  deriving DecidableEq, Repr

/-- One item of a `clen` line of the assembler notation (30_encoding.md R125); the runs give the number of zeros. -/
inductive ClenItem where
  | zero1
  | zrun4 (count : Nat)
  | zrun9 (count : Nat)
  | len (l : Nat)
  deriving DecidableEq, Repr

/-- One line of the assembler notation (30_encoding.md R125), without its job-header lines. -/
inductive AsmLine where
  | hdr (count : Nat)
  | tlen (n : Nat) (before : List Nat) (skip : Option Nat) (after : List Nat)
  | tlenConst (c : Nat)
  | clen (n : Nat) (items : List ClenItem)
  | clenConst (c : Nat)
  | plen (n : Nat) (lens : List Nat)
  | plenConst (c : Nat)
  | lit (v : Byte)
  | backRef (len : Nat) (off : Nat)
  deriving DecidableEq, Repr

/-- One LZSS line of the assembler notation (30_encoding.md R125). -/
inductive LzssLine where
  | ctrl (d : Byte)
  | lit (v : Byte)
  | backRef (f : Nat) (len : Nat)
  deriving DecidableEq, Repr

end Sys2Proof
end

