-- ==== Sys2Proof/WellFormed.lean ====
section
/-! DEFINITION. Which terms are operations of the block: the operand ranges the spec gives. -/

namespace Sys2Proof

/-- N_X, the number of symbols of alphabet X (10_state.md R28). -/
def Alphabet.size : Alphabet → Nat
  | .t => Config.symbolsT
  | .c => Config.symbolsC
  | .p => Config.symbolsP

/-- TB_X, the table-bits width of table X (10_state.md R28). -/
def Alphabet.tableBits : Alphabet → Nat
  | .t => Config.tableBitsT
  | .c => Config.tableBitsC
  | .p => Config.tableBitsP

/-- The width of the count field and of the single-symbol field of X's section (00_scope.md R8). -/
def Alphabet.countBits : Alphabet → Nat
  | .t => Config.countBitsT
  | .c => Config.countBitsC
  | .p => Config.countBitsP

/-- The header operation of an alphabet's section (42_lh5_block_header.md R192). -/
def Alphabet.sectionInstr : Alphabet → Instr
  | .t => .lh5Tlen
  | .c => .lh5Clen
  | .p => .lh5Plen

/-- The operand ranges of 40_bitreader.md R135, 41_huffman_table.md R165, 42_lh5_block_header.md R210,
43_lh5_streaming.md R234 and R238; every other operation has no operand to check. -/
def Instr.wellFormed : Instr → Bool
  | .brInit => true
  | .brPeek n => n ≤ Config.peekMax
  | .brConsume n => n ≤ Config.peekMax
  | .brGet n => n ≤ Config.peekMax
  | .htBuild _ => true
  | .htConst x c => c < 2 ^ x.countBits
  | .htDecode _ => true
  | .lh5Hdr => true
  | .lh5Blkcnt => true
  | .lh5Tlen => true
  | .lcLen => true
  | .lcTskip => true
  | .lh5Clen => true
  | .clZero1 => true
  | .clZrun4 => true
  | .clZrun9 => true
  | .clLen t => 3 ≤ t && t ≤ 18
  | .lh5Plen => true
  | .lh5Sym => true
  | .lh5Lit c => c < Config.litLimit
  | .lh5Match c => Config.litLimit ≤ c && c < Config.symbolsC
  | .lh5Dist => true
  | .lzssCtrl => true
  | .lzssLit => true
  | .lzssMatch => true
  | .cmdReset => true
  | .cmdStart => true
  | .cmdAbort => true

/-- The kind of a field. -/
def StreamField.kind : StreamField → FieldKind
  | .blockCount _ => .blockCount
  | .tCount _ => .tCount
  | .tSymbol _ => .tSymbol
  | .lengthCode _ => .lengthCode
  | .tSkip _ => .tSkip
  | .cCount _ => .cCount
  | .cSymbol _ => .cSymbol
  | .shortRun _ => .shortRun
  | .longRun _ => .longRun
  | .pCount _ => .pCount
  | .pSymbol _ => .pSymbol
  | .extra p _ => .extra p
  | .control _ => .control
  | .literal _ => .literal
  | .pair _ _ => .pair

/-- A length code has a value 0..16 (30_encoding.md R95); extra bits belong to a distance code 2..13 and fit in
p - 1 bits (R101). Every value of every other field is legal as a field. -/
def StreamField.wellFormed : StreamField → Bool
  | .lengthCode l => l ≤ Config.maxLen
  | .extra p e => 2 ≤ p && p < Config.symbolsP && e < 2 ^ (p - 1)
  | _ => true

end Sys2Proof
end

