-- ==== Sys2Proof/Decode.lean ====
section
/-! DEFINITION. Decoding and encoding of the two stream formats: which operation a selector names (30_encoding.md
R91, R97, R99, R110, R126), the bit fields (R93 to R99, R111), the canonical code (41_huffman_table.md R151), and the
assembler of R125. -/

namespace Sys2Proof

/-! ## Bits, first stream bit first (00_scope.md R12) -/

/-- The low n bits of v, the most significant first. -/
def bitsOf : Nat → Nat → List Bool
  | 0, _ => []
  | n + 1, v => v.testBit n :: bitsOf n v

/-- The value of a bit string whose first bit is the most significant. -/
def bitsValue (bs : List Bool) : Nat :=
  bs.foldl (fun a b => 2 * a + b.toNat) 0

/-- The value of the first n bits, zeros past the end (40_bitreader.md R132). -/
def leadingBits (n : Nat) (bs : List Bool) : Nat :=
  bitsValue (bs.take n ++ List.replicate (n - bs.length) false)

/-- The bits of a byte sequence, bit 7 of each byte first (20_memory.md R65). -/
def bytesToBits (bytes : List Byte) : List Bool :=
  bytes.flatMap fun v => bitsOf 8 v.toNat

/-- Bits packed into bytes, the last byte filled with zero bits. -/
def packBits : List Bool → List Byte
  | b7 :: b6 :: b5 :: b4 :: b3 :: b2 :: b1 :: b0 :: rest =>
    BitVec.ofNat 8 (bitsValue [b7, b6, b5, b4, b3, b2, b1, b0]) :: packBits rest
  | [] => []
  | bs => [BitVec.ofNat 8 (leadingBits 8 bs)]

/-! ## The length code (30_encoding.md R95, 42_lh5_block_header.md R198) -/

/-- How many 1 bits stand in w from bit n - 1 downwards before the first 0 bit. -/
def onesRun (w : Nat) : Nat → Nat
  | 0 => 0
  | n + 1 => if w.testBit n then onesRun w n + 1 else 0

/-- The length value of the code at the head of the 16-bit window w: its top 3 bits, and from 7 on 7 + k with k the
ones counted from bit 12 (R198). It is above 16 exactly for the illegal form. -/
def lengthCodeValue (w : Nat) : Nat :=
  let c := w / 2 ^ 13
  if c < 7 then c else 7 + onesRun w 13

/-- How many bits a length code of value c has: 3, or c - 3 for the extended forms. -/
def lengthCodeWidth (c : Nat) : Nat := if c < 7 then 3 else c - 3

/-- The bits of the length code of value l. -/
def lengthCodeBits (l : Nat) : List Bool :=
  if l < 7 then bitsOf 3 l else List.replicate (l - 4) true ++ [false]

/-! ## The canonical code (41_huffman_table.md R151) -/

/-- count(l): the number of symbols of length l. -/
def lengthCount (lens : List Nat) (l : Nat) : Nat := lens.count l

/-- first(l), the left-aligned code of the first symbol of length l: first(1) = 0 and
first(l+1) = first(l) + count(l) * 2^(16-l). Symbols of length 0 have no code. -/
def firstCode (lens : List Nat) : Nat → Nat
  | 0 => 0
  | l + 1 => firstCode lens l + (if l = 0 then 0 else lengthCount lens l * 2 ^ (16 - l))

/-- K(s), the left-aligned 16-bit code of symbol s: first(l) + r(s) * 2^(16-l) with r(s) the number of earlier symbols
of the same length. -/
def canonicalCode (lens : List Nat) (s : Nat) : Nat :=
  let l := lens.getD s 0
  firstCode lens l + lengthCount (lens.take s) l * 2 ^ (16 - l)

/-- The code of symbol s: the top LEN[s] bits of K(s), first bit first. -/
def codeBits (lens : List Nat) (s : Nat) : List Bool :=
  (bitsOf 16 (canonicalCode lens s)).take (lens.getD s 0)

/-! ## Operations -/

/-- The C-section item a T symbol selects (30_encoding.md R97). -/
def decodeTSymbol (t : Nat) : Except DecodeError Instr :=
  if t = 0 then .ok .clZero1
  else if t = 1 then .ok .clZrun4
  else if t = 2 then .ok .clZrun9
  else if t < Config.symbolsT then .ok (.clLen t)
  else .error .noSuchTSymbol

/-- The symbol operation a C symbol selects: mask 0x100 on the 9-bit value (30_encoding.md R99). -/
def decodeCSymbol (c : Nat) : Except DecodeError Instr :=
  if c < Config.litLimit then .ok (.lh5Lit c)
  else if c < Config.symbolsC then .ok (.lh5Match c)
  else .error .noSuchCSymbol

/-- The LZSS token a decision bit selects (30_encoding.md R110). -/
def decodeToken (bit : Nat) : Except DecodeError Instr :=
  if bit = 1 then .ok .lzssLit
  else if bit = 0 then .ok .lzssMatch
  else .error .notADecisionBit

/-- The operation a selector names. Total; what names no operation is rejected by name. -/
def decode (sel : Selector) : Except DecodeError Instr :=
  match sel.slot with
  | .header => .ok .lh5Hdr
  | .blockCount => .ok .lh5Blkcnt
  | .tSection => .ok .lh5Tlen
  | .lengthCode => .ok .lcLen
  | .tSkip => .ok .lcTskip
  | .cSection => .ok .lh5Clen
  | .pSection => .ok .lh5Plen
  | .symbol => .ok .lh5Sym
  | .distance => .ok .lh5Dist
  | .control => .ok .lzssCtrl
  | .cItem => decodeTSymbol sel.value
  | .cSymbol => decodeCSymbol sel.value
  | .token => decodeToken sel.value

/-- The selector of an operation; none for the unit operations and the commands, which have no stream encoding (R126). -/
def encode : Instr → Option Selector
  | .brInit => none
  | .brPeek _ => none
  | .brConsume _ => none
  | .brGet _ => none
  | .htBuild _ => none
  | .htConst _ _ => none
  | .htDecode _ => none
  | .lh5Hdr => some ⟨.header, 0⟩
  | .lh5Blkcnt => some ⟨.blockCount, 0⟩
  | .lh5Tlen => some ⟨.tSection, 0⟩
  | .lcLen => some ⟨.lengthCode, 0⟩
  | .lcTskip => some ⟨.tSkip, 0⟩
  | .lh5Clen => some ⟨.cSection, 0⟩
  | .clZero1 => some ⟨.cItem, 0⟩
  | .clZrun4 => some ⟨.cItem, 1⟩
  | .clZrun9 => some ⟨.cItem, 2⟩
  | .clLen t => some ⟨.cItem, t⟩
  | .lh5Plen => some ⟨.pSection, 0⟩
  | .lh5Sym => some ⟨.symbol, 0⟩
  | .lh5Lit c => some ⟨.cSymbol, c⟩
  | .lh5Match c => some ⟨.cSymbol, c⟩
  | .lh5Dist => some ⟨.distance, 0⟩
  | .lzssCtrl => some ⟨.control, 0⟩
  | .lzssLit => some ⟨.token, 1⟩
  | .lzssMatch => some ⟨.token, 0⟩
  | .cmdReset => none
  | .cmdStart => none
  | .cmdAbort => none

/-! ## Bit fields -/

/-- The field of the given kind at the head of the bits, and the bits after it. LH5 fields read zeros past the end
(40_bitreader.md R132); a length code above 16 is rejected (R95), and so is an LZSS field cut short (R121). -/
def decodeField (kind : FieldKind) (bs : List Bool) : Option (StreamField × List Bool) :=
  match kind with
  | .blockCount => some (.blockCount (BitVec.ofNat 16 (leadingBits 16 bs)), bs.drop 16)
  | .tCount => some (.tCount (BitVec.ofNat 5 (leadingBits 5 bs)), bs.drop 5)
  | .tSymbol => some (.tSymbol (BitVec.ofNat 5 (leadingBits 5 bs)), bs.drop 5)
  | .lengthCode =>
    let l := lengthCodeValue (leadingBits 16 bs)
    if Config.maxLen < l then none else some (.lengthCode l, bs.drop (lengthCodeWidth l))
  | .tSkip => some (.tSkip (BitVec.ofNat 2 (leadingBits 2 bs)), bs.drop 2)
  | .cCount => some (.cCount (BitVec.ofNat 9 (leadingBits 9 bs)), bs.drop 9)
  | .cSymbol => some (.cSymbol (BitVec.ofNat 9 (leadingBits 9 bs)), bs.drop 9)
  | .shortRun => some (.shortRun (BitVec.ofNat 4 (leadingBits 4 bs)), bs.drop 4)
  | .longRun => some (.longRun (BitVec.ofNat 9 (leadingBits 9 bs)), bs.drop 9)
  | .pCount => some (.pCount (BitVec.ofNat 4 (leadingBits 4 bs)), bs.drop 4)
  | .pSymbol => some (.pSymbol (BitVec.ofNat 4 (leadingBits 4 bs)), bs.drop 4)
  | .extra p => some (.extra p (leadingBits (p - 1) bs), bs.drop (p - 1))
  | .control =>
    if bs.length < 8 then none else some (.control (BitVec.ofNat 8 (leadingBits 8 bs)), bs.drop 8)
  | .literal =>
    if bs.length < 8 then none else some (.literal (BitVec.ofNat 8 (leadingBits 8 bs)), bs.drop 8)
  | .pair =>
    if bs.length < 16 then none
    else
      let b0 := leadingBits 8 bs
      let b1 := leadingBits 8 (bs.drop 8)
      some (.pair (BitVec.ofNat 12 (b0 + 256 * (b1 / 16))) (BitVec.ofNat 4 b1), bs.drop 16)

/-- The bits of a field (30_encoding.md R93 to R99, R111). -/
def encodeField : StreamField → List Bool
  | .blockCount k => bitsOf 16 k.toNat
  | .tCount n => bitsOf 5 n.toNat
  | .tSymbol c => bitsOf 5 c.toNat
  | .lengthCode l => lengthCodeBits l
  | .tSkip z => bitsOf 2 z.toNat
  | .cCount n => bitsOf 9 n.toNat
  | .cSymbol c => bitsOf 9 c.toNat
  | .shortRun f => bitsOf 4 f.toNat
  | .longRun f => bitsOf 9 f.toNat
  | .pCount n => bitsOf 4 n.toNat
  | .pSymbol c => bitsOf 4 c.toNat
  | .extra p e => bitsOf (p - 1) e
  | .control d => bitsOf 8 d.toNat
  | .literal v => bitsOf 8 v.toNat
  | .pair f lf => bitsOf 8 f.toNat ++ (bitsOf 4 (f.toNat / 256) ++ bitsOf 4 lf.toNat)

/-! ## The host's opcode-table words (log 12) -/

/-- The selector of a word of the opcode table. The table's words are no stream words: a row's "fixed" bits are a
decision bit, a T symbol, a C symbol or a length code, and the four overlap. Up to 8 bits, 0 and 1 are read as a
decision bit, 2..18 as a T symbol, the rest as the leading bits of a length code; up to 16 bits, as a C symbol. -/
def tableSelector (nbits w : Nat) : Option Selector :=
  if nbits ≤ 8 then
    if w < 2 then some ⟨.token, w⟩
    else if w < Config.symbolsT then some ⟨.cItem, w⟩
    else some ⟨.lengthCode, w⟩
  else if nbits ≤ 16 then some ⟨.cSymbol, w % 512⟩
  else none

/-- The operation the decoder reads from a word of the opcode table. -/
def decodeTableWord (nbits w : Nat) : Option Instr :=
  match tableSelector nbits w with
  | none => none
  | some sel => (decode sel).toOption

/-! ## The assembler of 30_encoding.md R125 -/

/-- The tables in force while LH5 lines are assembled: none for a single-symbol table, whose codes have no bits. -/
structure AsmTables where
  t : Option (List Nat)
  c : Option (List Nat)
  p : Option (List Nat)

/-- The bits of the code of symbol s under a table in force. -/
def asmCode (table : Option (List Nat)) (s : Nat) : List Bool :=
  match table with
  | none => []
  | some lens => codeBits lens s

/-- The bits of one `clen` item: the code of its T symbol, then its field (R97). -/
def asmItem (t : Option (List Nat)) : ClenItem → List Bool
  | .zero1 => asmCode t 0
  | .zrun4 count => asmCode t 1 ++ bitsOf 4 (count - Config.shortRunBias)
  | .zrun9 count => asmCode t 2 ++ bitsOf 9 (count - Config.longRunBias)
  | .len l => asmCode t (l + 2)

/-- The C lengths one `clen` item stands for. -/
def itemLens : ClenItem → List Nat
  | .zero1 => [0]
  | .zrun4 count => List.replicate count 0
  | .zrun9 count => List.replicate count 0
  | .len l => [l]

/-- The distance code of a distance and its extra bits (R101). -/
def distanceCode (distance : Nat) : Nat × List Bool :=
  if distance = 0 then (0, [])
  else
    let p := Nat.log2 distance + 1
    (p, bitsOf (p - 1) (distance - 2 ^ (p - 1)))

/-- The bits of one LH5 line and the tables in force after it. -/
def asmLine (tables : AsmTables) : AsmLine → List Bool × AsmTables
  | .hdr count => (bitsOf 16 count, tables)
  | .tlen n before skip after =>
    (bitsOf 5 n ++ before.flatMap lengthCodeBits ++ (skip.elim [] (bitsOf 2)) ++ after.flatMap lengthCodeBits,
      { tables with t := some (before ++ List.replicate (skip.getD 0) 0 ++ after) })
  | .tlenConst c => (bitsOf 5 0 ++ bitsOf 5 c, { tables with t := none })
  | .clen n items =>
    (bitsOf 9 n ++ items.flatMap (asmItem tables.t), { tables with c := some (items.flatMap itemLens) })
  | .clenConst c => (bitsOf 9 0 ++ bitsOf 9 c, { tables with c := none })
  | .plen n lens => (bitsOf 4 n ++ lens.flatMap lengthCodeBits, { tables with p := some lens })
  | .plenConst c => (bitsOf 4 0 ++ bitsOf 4 c, { tables with p := none })
  | .lit v => (asmCode tables.c v.toNat, tables)
  | .backRef len off =>
    let d := distanceCode (off - 1)
    (asmCode tables.c (len - Config.threshold + Config.litLimit) ++ (asmCode tables.p d.1 ++ d.2), tables)

/-- The bits of LH5 lines. -/
def asmBits (tables : AsmTables) : List AsmLine → List Bool
  | [] => []
  | line :: rest =>
    let r := asmLine tables line
    r.1 ++ asmBits r.2 rest

/-- The byte sequence of an LH5 program. -/
def assembleLh5 (lines : List AsmLine) : List Byte :=
  packBits (asmBits { t := none, c := none, p := none } lines)

/-- The bytes of one LZSS line (R111, R112). -/
def lzssLineBytes : LzssLine → List Byte
  | .ctrl d => [d]
  | .lit v => [v]
  | .backRef f len =>
    packBits (encodeField (.pair (BitVec.ofNat 12 f) (BitVec.ofNat 4 (len - Config.pairLenBias))))

/-- The byte sequence of an LZSS program. -/
def assembleLzss (lines : List LzssLine) : List Byte := lines.flatMap lzssLineBytes

end Sys2Proof
end

