-- ==== Sys2Proof/Machine/State.lean ====
section
/-! DEFINITION. The state of the block as plain data (10_state.md R20 to R39), its faults and refusals, and the small
types its operations use. -/

namespace Sys2Proof.Machine

/-- STATE (10_state.md R21, 45_host_commands.md R311). -/
inductive JobState where
  | idle
  | run
  | done
  | fault
  deriving DecidableEq, Repr

/-- PHASE, the LH5 decoder's state (10_state.md R26). -/
inductive Phase where
  | blockHeader
  | streaming
  deriving DecidableEq, Repr

/-- A cell of TABLE_X, LEFT_X or RIGHT_X: NIL is none; a value v below N_X is a symbol, any other a node id
(10_state.md R30). -/
abbrev Entry := Option Nat

/-- One Huffman table unit (10_state.md R28 to R31). LEFT_X[d] and RIGHT_X[d] stand at place d - N_X of their lists. -/
structure TableUnit where
  /-- LEN_X[0..N_X-1], 5 bits each (R29). -/
  len : List (BitVec 5)
  /-- TABLE_X[0..2^TB_X-1] (R30). -/
  table : List Entry
  /-- LEFT_X[N_X..2*N_X-2] (R30). -/
  left : List Entry
  /-- RIGHT_X[N_X..2*N_X-2] (R30). -/
  right : List Entry
  /-- AVAIL_X, the next unused node id during BUILD (R30). -/
  avail : Nat
  /-- CONST_X.V (R31). -/
  constV : Bool
  /-- CONST_X.SYM (R31). -/
  constSym : Nat
  deriving DecidableEq, Repr

/-- A byte space: the listed cells, addresses rising; what an unlisted address reads as is State.blank's. -/
abbrev Memory := List Host.Cell

/-- The three address spaces (20_memory.md R60 to R62). -/
inductive Space where
  | inn
  | out
  | ring
  deriving DecidableEq, Repr

/-- What a host read names (45_host_commands.md R318). -/
inductive HostObject where
  | codec
  | inLen
  | expandedSize
  | state
  | outCount
  | faultCode
  | faultSub
  | faultInfo
  | bitpos
  | inPos
  | inByte (a : Word)
  | outByte (a : Word)
  /-- RING, the tables, LEN_X and CTRL: "not accessible". -/
  | internals
  deriving DecidableEq, Repr

/-- The three commands (45_host_commands.md R314, R316, R317). -/
inductive HostCommand where
  | reset
  | start
  | abort
  deriving DecidableEq, Repr

/-- What the host can do at a step boundary (45_host_commands.md R310, R318). -/
inductive HostAction where
  /-- The host does nothing at this boundary: the block takes its step. -/
  | wait
  | command (c : HostCommand)
  | writeCodec (v : BitVec 3)
  | writeInLen (v : Word)
  | writeExpandedSize (v : Word)
  | writeIn (a : Word) (v : Byte)
  | writeOut (a : Word) (v : Byte)
  | read (o : HostObject)
  deriving DecidableEq, Repr

/-- The state of the machine: everything 10_state.md R20 lists, the parameters of 00_scope.md R9, and the model's own
fields host, hostData, freeIx, unitResult and lenIndex (log 1, 6, 8, 9). -/
structure State where
  /-- The open parameters, written by no step (00_scope.md R9, log 1). -/
  params : Params
  /-- CODEC: 3 = LZSS, 5 = LH5, the rest reserved (R21). -/
  codec : BitVec 3
  /-- IN_LEN (R21). -/
  inLen : Word
  /-- EXPANDED_SIZE (R21). -/
  expandedSize : Word
  /-- STATE (R21). -/
  state : JobState
  /-- OUT_COUNT (R21). -/
  outCount : Word
  /-- FAULT_CODE (R21). -/
  faultCode : BitVec 3
  /-- FAULT_SUB (R21). -/
  faultSub : BitVec 4
  /-- FAULT_INFO (R21). -/
  faultInfo : Word
  /-- BITPOS, the LH5 stream cursor, an unbounded natural (R22, R24). -/
  bitpos : Nat
  /-- IN_POS, the LZSS stream cursor (R24, R35). -/
  inPos : Word
  /-- PHASE (R26). -/
  phase : Phase
  /-- BLOCK_COUNT (R26). -/
  blockCount : BitVec 16
  /-- The table units T, C and P (R28). -/
  tabT : TableUnit
  tabC : TableUnit
  tabP : TableUnit
  /-- CTRL (R35). -/
  ctrl : BitVec 8
  /-- CTRL_LEFT (R35). -/
  ctrlLeft : BitVec 4
  /-- RING_W (R35). -/
  ringW : BitVec 12
  /-- IN (20_memory.md R60). -/
  inMem : Memory
  /-- OUT (20_memory.md R61): a listed cell is one that EMIT has written in this job. -/
  outMem : Memory
  /-- RING (20_memory.md R62): a listed cell is one written in this job (R36). -/
  ringMem : Memory
  /-- The model's own: the host's actions still to come, one a step boundary (log 6). -/
  host : List HostAction
  /-- The model's own: what the last host read returned (log 9). -/
  hostData : Nat
  /-- The model's own: the counter free values are drawn with (log 9). -/
  freeIx : Nat
  /-- The model's own: what the last unit operation executed on its own returned (log 8). -/
  unitResult : Nat
  /-- The model's own: the running index i on which a C-section item executed on its own works (log 8). -/
  lenIndex : Nat
  deriving DecidableEq, Repr

/-- Why the MODEL stops with a fault. A fault of the HARDWARE is no outcome of this kind: it is a next state with
STATE = FAULT (60_exceptions.md R350). Each case is one the spec gives no meaning, and all are safe (log 16). -/
inductive Fault where
  /-- Raised by EMIT: OUT has no cell at or beyond EXPANDED_SIZE, and a write there "never happens" (20_memory.md R61,
  43_lh5_streaming.md R236). Safe. -/
  | outOutOfRange
  /-- Raised by COPY: the OUT cell was not written in this job, "reading it before a write is a model error"
  (10_state.md R39). Safe. -/
  | outUnwritten
  /-- Raised by FETCH with IN_POS beyond IN_LEN: MemRead(IN:a, 1) is defined only for a < IN_LEN (20_memory.md R60).
  Safe. -/
  | inOutOfRange
  /-- Raised by TAKEBIT: its precondition is CTRL_LEFT > 0 (44_lzss.md R275). Safe. -/
  | noDecisionBit
  /-- Raised by the step: STATE = RUN with a reserved CODEC, for which no step selection exists (45_host_commands.md
  R311, R313). Safe. -/
  | noDecoderSelected
  deriving DecidableEq, Repr

/-- Why the MODEL refuses. All are safe. -/
inductive Refusal where
  /-- Raised by no arm of this model: an instruction not modelled yet. Safe. -/
  | notModelled (mnemonic : String)
  /-- Raised by BR.PEEK, BR.CONSUME and BR.GET with n > 16, "a caller bug" (40_bitreader.md R135,
  93_implementation_defined.md U1: refuse). Safe. -/
  | readTooWide
  /-- Raised by CL.LEN, LH5.LIT and LH5.MATCH on a symbol that does not select them: no such operation exists
  (30_encoding.md R97, R99). Safe. -/
  | noSuchOperation
  /-- Raised by CL.LEN executed on its own with a running index at or above 510: LEN_C has no such entry
  (42_lh5_block_header.md R210). Safe. -/
  | lengthIndexOutOfRange
  /-- Raised by a host write to IN while STATE = RUN (93_implementation_defined.md U6: refuse). Safe. -/
  | hostWroteInDuringRun
  /-- Raised by a host write to OUT, which 45_host_commands.md R318 gives the host in no state
  (93_implementation_defined.md U7: refuse). Safe. -/
  | hostWroteOut
  /-- Raised by a host read of RING, the tables, LEN_X or CTRL: "not accessible" (45_host_commands.md R318). Safe. -/
  | notAccessible
  deriving DecidableEq, Repr

/-- Sub-codes of MalformedTable (60_exceptions.md R342). -/
inductive TableCause where
  | lenGt16
  | codeSpace
  | nodeIndex
  | count
  | constSymbol
  | zeroRun
  deriving DecidableEq, Repr

/-- Sub-codes of TruncatedInput (60_exceptions.md R342). -/
inductive EofPlace where
  | ctrlByte
  | literal
  | pairFirst
  | pairSecond
  deriving DecidableEq, Repr

/-- The faults of the hardware with their information words (60_exceptions.md R341, R342). -/
inductive Cause where
  | malformedTable (sub : TableCause) (info : Nat)
  | offsetBeforeStart (offset : Nat)
  | truncatedInput (place : EofPlace) (inPos : Word)
  | unsupportedCompression (codec : BitVec 3)
  | ringUnwritten (cell : Nat)
  deriving DecidableEq, Repr

/-- How an operation or a part of one ends: it goes on with a result; it ends the whole operation in a state (a raised
fault, or the end of a job); or the model stops. -/
inductive Res (α : Type) where
  | ok (a : α) (s : State)
  | ended (s : State)
  | stop (f : Fault)
  deriving DecidableEq, Repr

/-- A reference to one storage cell of a table unit, `&TABLE_X[j]`, `&LEFT_X[d]` or `&RIGHT_X[d]`
(41_huffman_table.md R161). -/
inductive CellRef where
  | table (j : Nat)
  | left (d : Nat)
  | right (d : Nat)
  deriving DecidableEq, Repr

/-- What step selection finds (43_lh5_streaming.md R231, 44_lzss.md R271). -/
inductive Selection where
  | operation (i : Instr)
  | finish
  /-- STATE is not RUN: the block takes no step (45_host_commands.md R311). -/
  | quiescent
  | noDecoder
  deriving DecidableEq, Repr

/-- A table unit after reset: CONST_X = (0, 0) (10_state.md R39); LEN_X, TABLE_X, LEFT_X, RIGHT_X and AVAIL_X are
unspecified there and hold 0 and NIL (DESIGN CHOICE, unsafe, log 2). -/
def TableUnit.reset (x : Alphabet) : TableUnit :=
  { len := List.replicate x.size 0#5
    table := List.replicate (2 ^ x.tableBits) none
    left := List.replicate (x.size - 1) none
    right := List.replicate (x.size - 1) none
    avail := 0
    constV := false
    constSym := 0 }

/-- The machine right after hardware reset (10_state.md R39, column "After reset"). The parameters are the defaults of
00_scope.md R9; RING, OUT and IN list nothing (log 3, 4, 5); the host has no action pending (log 6). -/
def State.reset : State :=
  { params := Params.default
    codec := 0#3
    inLen := 0#32
    expandedSize := 0#32
    state := .idle
    outCount := 0#32
    faultCode := 0#3
    faultSub := 0#4
    faultInfo := 0#32
    bitpos := 0
    inPos := 0#32
    phase := .blockHeader
    blockCount := 0#16
    tabT := TableUnit.reset .t
    tabC := TableUnit.reset .c
    tabP := TableUnit.reset .p
    ctrl := 0#8
    ctrlLeft := 0#4
    ringW := Config.ringBias
    inMem := []
    outMem := []
    ringMem := []
    host := []
    hostData := 0
    freeIx := 0
    unitResult := 0
    lenIndex := 0 }

end Sys2Proof.Machine
end

