-- ==== Sys2Proof/Machine/Ops.lean ====
section
/-! DEFINITION. The named operations over memory and registers, the BitReader's primitives, and raising a fault, the
one trap mechanism of the block (60_exceptions.md R350). There is no return from a fault (R352): FAULT is left by
CMD.START or CMD.RESET only (Machine/Command.lean). -/

namespace Sys2Proof.Machine

/-! ## Sequencing -/

/-- The rest of an operation runs only when the part before it neither ended the operation nor stopped the model
("nothing after the raise executes, in this operation or in any enclosing one", R350). -/
def Res.bind {α β : Type} (r : Res α) (f : α → State → Res β) : Res β :=
  match r with
  | .ok a s => f a s
  | .ended s => .ended s
  | .stop e => .stop e

/-- The outcome of a whole operation that has no result of its own. -/
def Res.toOutcome (r : Res Unit) : Host.Outcome State Fault Refusal :=
  match r with
  | .ok _ s => .next s
  | .ended s => .next s
  | .stop e => .fault e

/-- The outcome of a unit operation executed on its own: its result is kept in unitResult (log 8). -/
def Res.toUnitOutcome (r : Res Nat) : Host.Outcome State Fault Refusal :=
  match r with
  | .ok v s => .next { s with unitResult := v }
  | .ended s => .next s
  | .stop e => .fault e

/-- The outcome of a C-section item executed on its own: the running index after it is kept in lenIndex (log 8). -/
def Res.toItemOutcome (r : Res Nat) : Host.Outcome State Fault Refusal :=
  match r with
  | .ok i s => .next { s with lenIndex := i }
  | .ended s => .next s
  | .stop e => .fault e

/-! ## Byte spaces -/

/-- The listed byte at an address. -/
def Memory.lookup : Memory → Nat → Option Byte
  | [], _ => none
  | (b, v) :: m, a => if b = a then some v else Memory.lookup m a

/-- The memory with a byte listed at an address, the list kept in rising order. -/
def Memory.insert (a : Nat) (v : Byte) : Memory → Memory
  | [] => [(a, v)]
  | (b, w) :: m =>
    if a < b then (a, v) :: (b, w) :: m
    else if a = b then (a, v) :: m
    else (b, w) :: Memory.insert a v m

/-- The memory with nothing listed at an address. -/
def Memory.erase (a : Nat) : Memory → Memory
  | [] => []
  | (b, w) :: m => if b = a then m else (b, w) :: Memory.erase a m

/-- A byte written: what an unlisted address reads as is not listed. -/
def Memory.store (blank : Option Byte) (a : Nat) (v : Byte) (m : Memory) : Memory :=
  if blank = some v then Memory.erase a m else Memory.insert a v m

/-- What an address reads as. -/
def Memory.load (blank : Option Byte) (m : Memory) (a : Nat) : Option Byte :=
  (Memory.lookup m a).or blank

/-- Addresses strictly rise from a bound on. -/
def Memory.rising : Nat → Memory → Bool
  | _, [] => true
  | n, (b, _) :: m => n ≤ b && Memory.rising (b + 1) m

/-- The canonical form: addresses strictly rising, and no entry equal to what an unlisted address reads as. -/
def Memory.wf (blank : Option Byte) (m : Memory) : Bool :=
  Memory.rising 0 m && m.all fun cell => decide (blank ≠ some cell.2)

/-- What an unlisted address of a space reads as: IN 0x00 (DESIGN CHOICE, unsafe, log 4); OUT has no value (log 5);
RING the job-start content LZSS_RING_FILL, no value for `none` (10_state.md R36). -/
def State.blank (s : State) : Space → Option Byte
  | .inn => some 0#8
  | .out => none
  | .ring => s.params.ringFill

/-- The cells of a space. -/
def State.memory (s : State) : Space → Memory
  | .inn => s.inMem
  | .out => s.outMem
  | .ring => s.ringMem

/-- MemRead(S:a, 1) (00_scope.md R13); none where the cell has no value. -/
def State.memRead (s : State) (space : Space) (a : Nat) : Option Byte :=
  Memory.load (s.blank space) (s.memory space) a

/-- MemWrite(S:a, 1, v) (00_scope.md R13). -/
def State.memWrite (s : State) (space : Space) (a : Nat) (v : Byte) : State :=
  match space with
  | .inn => { s with inMem := Memory.store (s.blank .inn) a v s.inMem }
  | .out => { s with outMem := Memory.store (s.blank .out) a v s.outMem }
  | .ring => { s with ringMem := Memory.store (s.blank .ring) a v s.ringMem }

/-! ## Table units -/

/-- The table unit of an alphabet (10_state.md R28). -/
def State.unit (s : State) : Alphabet → TableUnit
  | .t => s.tabT
  | .c => s.tabC
  | .p => s.tabP

/-- The state with one table unit replaced; the three are separate storage (10_state.md R28). -/
def State.setUnit (s : State) (x : Alphabet) (u : TableUnit) : State :=
  match x with
  | .t => { s with tabT := u }
  | .c => { s with tabC := u }
  | .p => { s with tabP := u }

/-- `*cell`; a node id below N_X or above 2*N_X-2 names no cell, and reads NIL. -/
def TableUnit.readCell (x : Alphabet) (u : TableUnit) : CellRef → Entry
  | .table j => u.table.getD j none
  | .left d => if x.size ≤ d then u.left.getD (d - x.size) none else none
  | .right d => if x.size ≤ d then u.right.getD (d - x.size) none else none

/-- `*cell <- v`; never outside the arrays (41_huffman_table.md R176). -/
def TableUnit.writeCell (x : Alphabet) (u : TableUnit) (cell : CellRef) (v : Entry) : TableUnit :=
  match cell with
  | .table j => { u with table := u.table.set j v }
  | .left d => if x.size ≤ d then { u with left := u.left.set (d - x.size) v } else u
  | .right d => if x.size ≤ d then { u with right := u.right.set (d - x.size) v } else u

/-- LEN_X[v] as a natural. -/
def TableUnit.lenOf (u : TableUnit) (v : Nat) : Nat := (u.len.getD v 0#5).toNat

/-- LEN_X as naturals. -/
def TableUnit.lens (u : TableUnit) : List Nat := u.len.map BitVec.toNat

/-- LEN_X[i] <- l in the state. -/
def State.setLen (s : State) (x : Alphabet) (i : Nat) (l : Nat) : State :=
  let u := s.unit x
  s.setUnit x { u with len := u.len.set i (BitVec.ofNat 5 l) }

/-- `for s in 0..N-1: LEN_X[s] <- 0` (42_lh5_block_header.md R195). -/
def State.clearLens (s : State) (x : Alphabet) : State :=
  let u := s.unit x
  s.setUnit x { u with len := List.replicate x.size 0#5 }

/-! ## The BitReader (40_bitreader.md) -/

/-- SBIT(k): stream bit k of IN, zero past the end (00_scope.md R12). -/
def State.streamBit (s : State) (k : Nat) : Bool :=
  if k / 8 < s.inLen.toNat then ((s.memRead .inn (k / 8)).getD 0#8).getLsbD (7 - k % 8) else false

/-- The n stream bits from k on, the first the most significant. -/
def State.bitsFrom (s : State) (k : Nat) : Nat → Nat
  | 0 => 0
  | n + 1 => 2 * s.bitsFrom k n + (s.streamBit (k + n)).toNat

/-- PEEK(n) (40_bitreader.md R132). -/
def State.peek (s : State) (n : Nat) : Nat := s.bitsFrom s.bitpos n

/-- CONSUME(n) (40_bitreader.md R133). -/
def State.consume (s : State) (n : Nat) : State := { s with bitpos := s.bitpos + n }

/-! ## Raising a fault (60_exceptions.md R350) -/

/-- FAULT_CODE of a fault (60_exceptions.md R341). -/
def Cause.code : Cause → BitVec 3
  | .malformedTable _ _ => 1#3
  | .offsetBeforeStart _ => 2#3
  | .truncatedInput _ _ => 3#3
  | .unsupportedCompression _ => 4#3
  | .ringUnwritten _ => 6#3

/-- FAULT_SUB of a malformed table (60_exceptions.md R342). -/
def TableCause.sub : TableCause → BitVec 4
  | .lenGt16 => 1#4
  | .codeSpace => 2#4
  | .nodeIndex => 3#4
  | .count => 4#4
  | .constSymbol => 5#4
  | .zeroRun => 6#4

/-- FAULT_SUB of an input cut short (60_exceptions.md R342). -/
def EofPlace.sub : EofPlace → BitVec 4
  | .ctrlByte => 1#4
  | .literal => 2#4
  | .pairFirst => 3#4
  | .pairSecond => 4#4

/-- FAULT_SUB of a fault (60_exceptions.md R342). -/
def Cause.sub : Cause → BitVec 4
  | .malformedTable sub _ => sub.sub
  | .offsetBeforeStart _ => 0#4
  | .truncatedInput place _ => place.sub
  | .unsupportedCompression _ => 0#4
  | .ringUnwritten _ => 0#4

/-- FAULT_INFO of a fault, "as a 32-bit value" (60_exceptions.md R342, R350). -/
def Cause.info : Cause → Word
  | .malformedTable _ info => BitVec.ofNat 32 info
  | .offsetBeforeStart offset => BitVec.ofNat 32 offset
  | .truncatedInput _ inPos => inPos
  | .unsupportedCompression codec => codec.setWidth 32
  | .ringUnwritten cell => BitVec.ofNat 32 cell

/-- The state `raise F(sub, info)` leaves: the fault triple and STATE written and nothing else (60_exceptions.md R350).
What that rule calls unspecified after a fault keeps the value the operation's own pseudocode left (log 10). -/
def State.faulted (s : State) (cause : Cause) : State :=
  { s with
    faultCode := cause.code
    faultSub := cause.sub
    faultInfo := cause.info
    state := .fault }

/-- `raise F(sub, info)`: the operation and every enclosing one end (60_exceptions.md R350). -/
def raise {α : Type} (cause : Cause) (s : State) : Res α := .ended (s.faulted cause)

/-! ## Output -/

/-- EMIT(v) of the LH5 decoder (43_lh5_streaming.md R236): OUT[OUT_COUNT] <- v, OUT_COUNT + 1. Its precondition is
OUT_COUNT < EXPANDED_SIZE; OUT has no cell beyond. -/
def emit (v : Byte) (s : State) : Res Unit :=
  if s.outCount < s.expandedSize then
    let s := s.memWrite .out s.outCount.toNat v
    .ok () { s with outCount := s.outCount + 1#32 }
  else .stop .outOutOfRange

/-- EMIT(v) of the LZSS decoder (44_lzss.md R280): also RING[RING_W] <- v, RING_W + 1 mod 4096. -/
def emitRing (v : Byte) (s : State) : Res Unit :=
  (emit v s).bind fun _ s =>
    let s := s.memWrite .ring s.ringW.toNat v
    .ok () { s with ringW := s.ringW + 1#12 }

end Sys2Proof.Machine
end

