-- ==== Sys2Proof/Machine/Operands.lean ====
section
/-! DEFINITION. Operand assembly: match lengths, distances and offsets of LH5 (30_encoding.md R100, R101), the pair of
LZSS (R112). The length code's value is Decode.lean's. -/

namespace Sys2Proof.Machine

/-- The match length of a C symbol c >= 256: c - 256 + 3 (R100). -/
def matchLength (c : Nat) : Nat := c - Config.litLimit + Config.threshold

/-- How many extra bits a distance code p has: p - 1, and none for 0 (R101). -/
def extraBits (p : Nat) : Nat := p - 1

/-- The distance of code p with extra bits e: 0 for p = 0, else 2^(p-1) + e (R101). -/
def distanceOf (p e : Nat) : Nat := if p = 0 then 0 else 2 ^ (p - 1) + e

/-- The copy offset of a distance: "final offset = distance+1" (R101). -/
def offsetOf (distance : Nat) : Nat := distance + 1

/-- F, the ring index of a pair: b0 + 256 * b1[7:4] (R112). -/
def pairOffset (b0 b1 : Byte) : Nat := b0.toNat + 256 * (b1.toNat / 16)

/-- The length of a pair: b1[3:0] + 3 (R112). -/
def pairLength (b1 : Byte) : Nat := b1.toNat % 16 + Config.pairLenBias

/-- The ring cell of source byte k of a pair's copy: (F + k) mod 4096 (44_lzss.md R283). -/
def ringIndex (f k : Nat) : Nat := (f + k) % Config.ringSize

end Sys2Proof.Machine
end

