-- ==== Sys2Proof/Machine/Flags.lean ====
section
/-! DEFINITION. The flag-like state of 10_state.md R27: CTRL and CTRL_LEFT, taken bit by bit (44_lzss.md R275), PHASE
at the end of a block (43_lh5_streaming.md R232), and STATE at the end of a job (45_host_commands.md R315). The block
has no condition codes. -/

namespace Sys2Proof.Machine

/-- The next decision bit, CTRL[7]: the control byte is "consumed high-to-low" (10_state.md R35). -/
def State.decisionBit (s : State) : Bool := s.ctrl.getLsbD 7

/-- TAKEBIT (44_lzss.md R275): returns CTRL[7], shifts CTRL left by one, decrements CTRL_LEFT. -/
def takeBit (s : State) : Res Bool :=
  if s.ctrlLeft = 0#4 then .stop .noDecisionBit
  else .ok s.decisionBit { s with ctrl := s.ctrl <<< 1, ctrlLeft := s.ctrlLeft - 1#4 }

/-- `BLOCK_COUNT <- (BLOCK_COUNT - 1) mod 2^16` (43_lh5_streaming.md R232). -/
def State.countSymbol (s : State) : State := { s with blockCount := s.blockCount - 1#16 }

/-- `if BLOCK_COUNT = 0: PHASE <- BLOCK_HEADER` (43_lh5_streaming.md R232). -/
def State.endBlock (s : State) : State :=
  if s.blockCount = 0#16 then { s with phase := .blockHeader } else s

/-- STATE <- DONE and nothing else (45_host_commands.md R315). -/
def State.finish (s : State) : State := { s with state := .done }

/-- The 2-bit encoding of STATE (10_state.md R21). -/
def JobState.code : JobState → Nat
  | .idle => 0
  | .run => 1
  | .done => 2
  | .fault => 3

end Sys2Proof.Machine
end

