-- ==== Sys2Proof/Machine/BitReader.lean ====
section
/-! DEFINITION. The BitReader's operations (40_bitreader.md R130 to R137). Its window and prefetch are not state
(R137, 10_state.md R25). -/

namespace Sys2Proof.Machine

/-- GET(n): PEEK(n), then CONSUME(n) (R134). -/
def getBits (n : Nat) (s : State) : Nat × State := (s.peek n, s.consume n)

/-- BR.INIT: BITPOS <- 0 (R131). -/
def execBrInit (s : State) : Host.Outcome State Fault Refusal := .next { s with bitpos := 0 }

/-- BR.PEEK n (R132); n > 16 is "a caller bug" and refused (R135). -/
def execBrPeek (n : Nat) (s : State) : Host.Outcome State Fault Refusal :=
  if n ≤ Config.peekMax then .next { s with unitResult := s.peek n } else .refused .readTooWide

/-- BR.CONSUME n (R133); n > 16 is refused (R135). -/
def execBrConsume (n : Nat) (s : State) : Host.Outcome State Fault Refusal :=
  if n ≤ Config.peekMax then .next (s.consume n) else .refused .readTooWide

/-- BR.GET n (R134); n > 16 is refused (R135). -/
def execBrGet (n : Nat) (s : State) : Host.Outcome State Fault Refusal :=
  if n ≤ Config.peekMax then
    let r := getBits n s
    .next { r.2 with unitResult := r.1 }
  else .refused .readTooWide

end Sys2Proof.Machine
end

