-- ==== Sys2Proof/Machine/Huffman.lean ====
section
/-! DEFINITION. The CanonicalHuffmanTable unit (41_huffman_table.md): HT.BUILD, HT.CONST, HT.DECODE. -/

namespace Sys2Proof.Machine

/-! ## HT.BUILD (R155 to R161) -/

/-- The first length above 16, part 1's offending length (R156). -/
def lengthAbove16 (lens : List Nat) : Option Nat := lens.find? fun l => decide (Config.maxLen < l)

/-- The exact total of the weights, sum for l in 1..16 of count[l] * 2^(16-l), never taken mod 2^16 (R157). -/
def codeSpaceTotal (lens : List Nat) : Nat :=
  ((List.range Config.maxLen).map fun j => lengthCount lens (j + 1) * 2 ^ (15 - j)).sum

/-- Part 3, clear (R158). -/
def TableUnit.cleared (x : Alphabet) (u : TableUnit) : TableUnit :=
  { u with
    constV := false
    table := List.replicate (2 ^ x.tableBits) none
    left := List.replicate (x.size - 1) none
    right := List.replicate (x.size - 1) none
    avail := x.size }

/-- Part 4, start[0..17]: start[l] is first(l) of R151 (R159). -/
def startOffsets (lens : List Nat) : List Nat := (List.range 18).map (firstCode lens)

/-- `for j in 0..n-1: TABLE_X[base + j] <- s` (R160). -/
def fillEntries (base n : Nat) (v : Nat) (table : List Entry) : List Entry :=
  table.take base ++ List.replicate (min n (table.length - base)) (some v) ++ table.drop (base + n)

/-- The loop of part 5b: from the cell reached by d bits of the code k, the next rem bits, allocating a node wherever
the cell is NIL (R161). `error` is the unit as it stands when a node id above 2N-2 is refused. -/
def insertWalk (x : Alphabet) (k : Nat) : Nat → Nat → CellRef → TableUnit → Except TableUnit (CellRef × TableUnit)
  | 0, _, cell, u => .ok (cell, u)
  | rem + 1, d, cell, u =>
    let child := fun (node : Nat) => if k.testBit (16 - (d + 1)) then CellRef.right node else CellRef.left node
    match u.readCell x cell with
    | some node => insertWalk x k rem (d + 1) (child node) u
    | none =>
      if 2 * x.size - 2 < u.avail then .error u
      else
        insertWalk x k rem (d + 1) (child u.avail)
          { u.writeCell x cell (some u.avail) with avail := u.avail + 1 }

/-- Part 5 for one symbol v of length l > 0 with left-aligned code k: the flat table (R160) or the tree (R161). -/
def assignCode (x : Alphabet) (v l k : Nat) (u : TableUnit) : Except TableUnit TableUnit :=
  let slot := k / 2 ^ (16 - x.tableBits)
  if l ≤ x.tableBits then .ok { u with table := fillEntries slot (2 ^ (x.tableBits - l)) v u.table }
  else
    match insertWalk x k (l - x.tableBits) x.tableBits (.table slot) u with
    | .error u' => .error u'
    | .ok (cell, u') => .ok (u'.writeCell x cell (some v))

/-- Part 5: every symbol in increasing order from v on; `start` is the running start offsets (R160, R161). -/
def assignAll (x : Alphabet) : List Nat → Nat → List Nat → TableUnit → Except TableUnit TableUnit
  | [], _, _, u => .ok u
  | l :: rest, v, start, u =>
    if l = 0 then assignAll x rest (v + 1) start u
    else
      let k := start.getD l 0
      match assignCode x v l k u with
      | .error u' => .error u'
      | .ok u' => assignAll x rest (v + 1) (start.set l (k + 2 ^ (16 - l))) u'

/-- HT.BUILD X (R155): the two whole-table checks precede every write (R175). -/
def buildTable (x : Alphabet) (s : State) : Res Unit :=
  let u := s.unit x
  match lengthAbove16 u.lens with
  | some l => raise (.malformedTable .lenGt16 l) s
  | none =>
    if codeSpaceTotal u.lens ≠ Config.codeSpace then
      raise (.malformedTable .codeSpace (codeSpaceTotal u.lens)) s
    else
      match assignAll x u.lens 0 (startOffsets u.lens) (u.cleared x) with
      | .ok u' => .ok () (s.setUnit x u')
      | .error u' => raise (.malformedTable .nodeIndex u'.avail) (s.setUnit x u')

/-! ## HT.CONST (R165) -/

/-- HT.CONST X, c: LEN_X zeroed, CONST_X <- (1, c); c outside the alphabet raises CONST_SYMBOL. -/
def constTable (x : Alphabet) (c : Nat) (s : State) : Res Unit :=
  if x.size ≤ c then raise (.malformedTable .constSymbol c) s
  else
    let s := s.clearLens x
    let u := s.unit x
    .ok () (s.setUnit x { u with constV := true, constSym := c })

/-! ## HT.DECODE (R170) -/

/-- The `while v >= N` loop of DECODE on the window w, d bits read so far, at most the given number of steps. None where
the walk reads NIL or does not end. -/
def treeWalk (x : Alphabet) (u : TableUnit) (w : Nat) : Nat → Nat → Nat → Option Nat
  | 0, _, v => if v < x.size then some v else none
  | fuel + 1, d, v =>
    if v < x.size then some v
    else
      match u.readCell x (if w.testBit (16 - (d + 1)) then .right v else .left v) with
      | none => none
      | some v' => treeWalk x u w fuel (d + 1) v'

/-- The symbol a built table X gives for the 16-bit window w: the flat table, then the tree (R170). -/
def TableUnit.symbolAt (x : Alphabet) (u : TableUnit) (w : Nat) : Option Nat :=
  match u.readCell x (.table (w / 2 ^ (16 - x.tableBits))) with
  | none => none
  | some v => treeWalk x u w (16 - x.tableBits) x.tableBits v

/-- FREE VALUE: some symbol of alphabet X, for a table that gives none; drawn with freeIx (log 23). -/
def State.freeSymbol (s : State) (x : Alphabet) : Nat := Config.unspecified s.freeIx % x.size

/-- The symbol of the window in the built table X. Where the walk reads NIL or does not end within 16 bits, which happens
in no table that BUILD accepted (R162), R170 states neither a symbol nor an exception: the symbol is a free one. -/
def decodeBuilt (x : Alphabet) (s : State) : Nat × State :=
  match (s.unit x).symbolAt x (s.peek 16) with
  | some v => (v, s)
  | none => (s.freeSymbol x, { s with freeIx := s.freeIx + 1 })

/-- DECODE(X) (R170). -/
def decodeSymbol (x : Alphabet) (s : State) : Res Nat :=
  let u := s.unit x
  if u.constV then .ok u.constSym s
  else
    let r := decodeBuilt x s
    .ok r.1 (r.2.consume (u.lenOf r.1))

/-! ## The instructions -/

/-- HT.BUILD X (R155). -/
def execHtBuild (x : Alphabet) (s : State) : Host.Outcome State Fault Refusal := (buildTable x s).toOutcome

/-- HT.CONST X, c (R165). -/
def execHtConst (x : Alphabet) (c : Nat) (s : State) : Host.Outcome State Fault Refusal :=
  (constTable x c s).toOutcome

/-- HT.DECODE X (R170). -/
def execHtDecode (x : Alphabet) (s : State) : Host.Outcome State Fault Refusal := (decodeSymbol x s).toUnitOutcome

end Sys2Proof.Machine
end

