-- ==== Sys2Proof/Machine/Lh5Header.lean ====
section
/-! DEFINITION. The LH5 decoder, BlockHeader state (42_lh5_block_header.md). -/

namespace Sys2Proof.Machine

/-- LH5.BLKCNT: BLOCK_COUNT <- GET(16) (R193). -/
def blockCountPart (s : State) : State :=
  let r := getBits Config.blockBits s
  { r.2 with blockCount := BitVec.ofNat 16 r.1 }

/-- LC.LEN: one length code; above 16 it raises LEN_GT_16 with nothing consumed (R198). -/
def lengthCode (s : State) : Res Nat :=
  let c := lengthCodeValue (s.peek 16)
  if Config.maxLen < c then raise (.malformedTable .lenGt16 c) s
  else .ok c (s.consume (lengthCodeWidth c))

/-- LC.TSKIP: z <- GET(2) (R199). -/
def skipRun (s : State) : Nat × State := getBits Config.skipBits s

/-- The single-symbol form of a section: the second field of the count's width, then HT.CONST (R196, R205, R214). -/
def constSection (x : Alphabet) (s : State) : Res Unit :=
  let r := getBits x.countBits s
  constTable x r.1 r.2

/-- The loop of LH5.TLEN, `while i < n` (R196); every turn advances i, so n turns are enough. -/
def tLengths (n : Nat) : Nat → Nat → State → Res Unit
  | 0, _, s => .ok () s
  | fuel + 1, i, s =>
    if i < n then
      (lengthCode s).bind fun l s =>
        let s := s.setLen .t i l
        if i + 1 = Config.escapeIndex then
          let r := skipRun s
          tLengths n fuel (i + 1 + r.1) r.2
        else tLengths n fuel (i + 1) s
    else .ok () s

/-- LH5.TLEN (R196, R197). -/
def tSection (s : State) : Res Unit :=
  let r := getBits Config.countBitsT s
  let n := r.1
  let s := r.2
  if n = 0 then constSection .t s
  else if Config.symbolsT < n then raise (.malformedTable .count n) s
  else (tLengths n n 0 (s.clearLens .t)).bind fun _ s => buildTable .t s

/-- A zero run of the C section: past 510 it raises ZERO_RUN, before i is changed (R211). -/
def zeroRun (i run : Nat) (s : State) : Res Nat :=
  if Config.symbolsC < i + run then raise (.malformedTable .zeroRun (i + run)) s else .ok (i + run) s

/-- CL.ZERO1 at index i (R207). -/
def zeroOne (i : Nat) (s : State) : Res Nat := zeroRun i 1 s

/-- CL.ZRUN4 at index i: a run of GET(4) + 3 (R208). -/
def zeroRunShort (i : Nat) (s : State) : Res Nat :=
  let r := getBits Config.shortRunBits s
  zeroRun i (r.1 + Config.shortRunBias) r.2

/-- CL.ZRUN9 at index i: a run of GET(9) + 20 (R209). -/
def zeroRunLong (i : Nat) (s : State) : Res Nat :=
  let r := getBits Config.countBitsC s
  zeroRun i (r.1 + Config.longRunBias) r.2

/-- CL.LEN at index i with T symbol t: LEN_C[i] <- t - 2 (R210). -/
def storeLength (t i : Nat) (s : State) : Res Nat := .ok (i + 1) (s.setLen .c i (t - 2))

/-- The item that T symbol t selects (30_encoding.md R97), as the body of LH5.CLEN's loop (R205). -/
def cItem (t i : Nat) (s : State) : Res Nat :=
  if t = 0 then zeroOne i s
  else if t = 1 then zeroRunShort i s
  else if t = 2 then zeroRunLong i s
  else storeLength t i s

/-- The loop of LH5.CLEN, `while i < n` (R205); every turn advances i, so n turns are enough. -/
def cLengths (n : Nat) : Nat → Nat → State → Res Unit
  | 0, _, s => .ok () s
  | fuel + 1, i, s =>
    if i < n then
      (decodeSymbol .t s).bind fun t s => (cItem t i s).bind fun i s => cLengths n fuel i s
    else .ok () s

/-- LH5.CLEN (R205, R206). -/
def cSection (s : State) : Res Unit :=
  let r := getBits Config.countBitsC s
  let n := r.1
  let s := r.2
  if n = 0 then constSection .c s
  else if Config.symbolsC < n then raise (.malformedTable .count n) s
  else (cLengths n n 0 (s.clearLens .c)).bind fun _ s => buildTable .c s

/-- The loop of LH5.PLEN, `for i in 0..n-1`, rem turns from i on (R214). -/
def pLengths : Nat → Nat → State → Res Unit
  | 0, _, s => .ok () s
  | rem + 1, i, s => (lengthCode s).bind fun l s => pLengths rem (i + 1) (s.setLen .p i l)

/-- LH5.PLEN (R214, R215). -/
def pSection (s : State) : Res Unit :=
  let r := getBits Config.countBitsP s
  let n := r.1
  let s := r.2
  if n = 0 then constSection .p s
  else if Config.symbolsP < n then raise (.malformedTable .count n) s
  else (pLengths n 0 (s.clearLens .p)).bind fun _ s => buildTable .p s

/-- LH5.HDR (R192): the four parts in order, then PHASE <- STREAMING. -/
def blockHeader (s : State) : Res Unit :=
  (tSection (blockCountPart s)).bind fun _ s =>
    (cSection s).bind fun _ s =>
      (pSection s).bind fun _ s => .ok () { s with phase := .streaming }

/-! ## The instructions -/

/-- LH5.HDR (R192). -/
def execLh5Hdr (s : State) : Host.Outcome State Fault Refusal := (blockHeader s).toOutcome

/-- LH5.BLKCNT (R193). -/
def execLh5Blkcnt (s : State) : Host.Outcome State Fault Refusal := .next (blockCountPart s)

/-- LH5.TLEN (R196). -/
def execLh5Tlen (s : State) : Host.Outcome State Fault Refusal := (tSection s).toOutcome

/-- LC.LEN (R198). -/
def execLcLen (s : State) : Host.Outcome State Fault Refusal := (lengthCode s).toUnitOutcome

/-- LC.TSKIP (R199): z is returned; "the caller adds z to its index". -/
def execLcTskip (s : State) : Host.Outcome State Fault Refusal :=
  let r := skipRun s
  .next { r.2 with unitResult := r.1 }

/-- LH5.CLEN (R205). -/
def execLh5Clen (s : State) : Host.Outcome State Fault Refusal := (cSection s).toOutcome

/-- CL.ZERO1 (R207). -/
def execClZero1 (s : State) : Host.Outcome State Fault Refusal := (zeroOne s.lenIndex s).toItemOutcome

/-- CL.ZRUN4 (R208). -/
def execClZrun4 (s : State) : Host.Outcome State Fault Refusal := (zeroRunShort s.lenIndex s).toItemOutcome

/-- CL.ZRUN9 (R209). -/
def execClZrun9 (s : State) : Host.Outcome State Fault Refusal := (zeroRunLong s.lenIndex s).toItemOutcome

/-- CL.LEN with T symbol t (R210); t in 3..18, and "the index i is below n <= 510 when the store happens". -/
def execClLen (t : Nat) (s : State) : Host.Outcome State Fault Refusal :=
  if t < 3 ∨ 18 < t then .refused .noSuchOperation
  else if Config.symbolsC ≤ s.lenIndex then .refused .lengthIndexOutOfRange
  else (storeLength t s.lenIndex s).toItemOutcome

/-- LH5.PLEN (R214). -/
def execLh5Plen (s : State) : Host.Outcome State Fault Refusal := (pSection s).toOutcome

end Sys2Proof.Machine
end

