-- ==== Sys2Proof/Machine/Lh5Stream.lean ====
section
/-! DEFINITION. The LH5 decoder, Streaming state, and the back-reference engine (43_lh5_streaming.md). -/

namespace Sys2Proof.Machine

/-- LH5.LIT(c): EMIT(c[7:0]) (R234). -/
def literalSymbol (c : Nat) (s : State) : Res Unit := emit (BitVec.ofNat 8 c) s

/-- LH5.DIST: a P symbol p, then its extra bits (R239). -/
def distance (s : State) : Res Nat :=
  (decodeSymbol .p s).bind fun p s =>
    if p = 0 then .ok 0 s
    else
      let r := getBits (extraBits p) s
      .ok (distanceOf p r.1) r.2

/-- COPY(length, offset), byte by byte, cut at EXPANDED_SIZE (R240, R242). -/
def copyBack (offset : Nat) : Nat → State → Res Unit
  | 0, s => .ok () s
  | k + 1, s =>
    if s.outCount = s.expandedSize then .ok () s
    else
      match s.memRead .out (s.outCount.toNat - offset) with
      | none => .stop .outUnwritten
      | some v => (emit v s).bind fun _ s => copyBack offset k s

/-- LH5.MATCH(c): the whole distance is read, then OffsetBeforeStart is tested, then the copy (R238, R241). -/
def matchSymbol (c : Nat) (s : State) : Res Unit :=
  (distance s).bind fun d s =>
    let offset := offsetOf d
    if s.outCount.toNat < offset then raise (.offsetBeforeStart offset) s
    else copyBack offset (matchLength c) s

/-- LH5.SYM: the counter, one C symbol, its literal or match, and BlockHeader at zero (R232). -/
def streamSymbol (s : State) : Res Unit :=
  (decodeSymbol .c s.countSymbol).bind fun c s =>
    (if c < Config.litLimit then literalSymbol c s else matchSymbol c s).bind fun _ s => .ok () s.endBlock

/-! ## The instructions -/

/-- LH5.SYM (R232). -/
def execLh5Sym (s : State) : Host.Outcome State Fault Refusal := (streamSymbol s).toOutcome

/-- LH5.LIT(c) (R234). -/
def execLh5Lit (c : Nat) (s : State) : Host.Outcome State Fault Refusal :=
  if c < Config.litLimit then (literalSymbol c s).toOutcome else .refused .noSuchOperation

/-- LH5.MATCH(c) (R238). -/
def execLh5Match (c : Nat) (s : State) : Host.Outcome State Fault Refusal :=
  if c < Config.litLimit ∨ Config.symbolsC ≤ c then .refused .noSuchOperation else (matchSymbol c s).toOutcome

/-- LH5.DIST (R239). -/
def execLh5Dist (s : State) : Host.Outcome State Fault Refusal := (distance s).toUnitOutcome

end Sys2Proof.Machine
end

