-- ==== Sys2Proof/Machine/Lzss.lean ====
section
/-! DEFINITION. The LZSS sliding-window decompressor (44_lzss.md). -/

namespace Sys2Proof.Machine

/-- FETCH (R272): the next byte of IN, or none for EXHAUSTED; the exhaustion test precedes the read. -/
def fetchByte (s : State) : Res (Option Byte) :=
  if s.inPos = s.inLen then .ok none s
  else if s.inPos < s.inLen then
    .ok (some ((s.memRead .inn s.inPos.toNat).getD 0#8)) { s with inPos := s.inPos + 1#32 }
  else .stop .inOutOfRange

/-- EOF(where) (R290): TruncatedInput under policy `fault`, STATE <- DONE under `end`; both end the operation. -/
def endOfInput {α : Type} (place : EofPlace) (s : State) : Res α :=
  match s.params.eofPolicy with
  | .fault => raise (.truncatedInput place s.inPos) s
  | .finish => .ended s.finish

/-- FETCH with EOF(where) on exhaustion (R274, R277, R283). -/
def fetchOrEnd (place : EofPlace) (s : State) : Res Byte :=
  (fetchByte s).bind fun b s =>
    match b with
    | none => endOfInput place s
    | some v => .ok v s

/-- LZSS.CTRL: CTRL <- FETCH, CTRL_LEFT <- 8 (R274). -/
def controlByte (s : State) : Res Unit :=
  (fetchOrEnd .ctrlByte s).bind fun b s => .ok () { s with ctrl := b, ctrlLeft := Config.controlBits }

/-- LZSS.LIT: TAKEBIT, FETCH, EMIT (R277). -/
def literalToken (s : State) : Res Unit :=
  (takeBit s).bind fun _ s => (fetchOrEnd .literal s).bind fun v s => emitRing v s

/-- The copy loop of LZSS.MATCH from byte k on, rem bytes: cut at EXPANDED_SIZE (R286); a cell not written in this job
raises RingUnwritten when LZSS_RING_FILL = none (R287). -/
def copyRing (f : Nat) : Nat → Nat → State → Res Unit
  | 0, _, s => .ok () s
  | rem + 1, k, s =>
    if s.outCount = s.expandedSize then .ok () s
    else
      match s.memRead .ring (ringIndex f k) with
      | none => raise (.ringUnwritten (ringIndex f k)) s
      | some v => (emitRing v s).bind fun _ s => copyRing f rem (k + 1) s

/-- The second byte of a pair: its absence is TruncatedInput(PAIR_SECOND) whatever the policy (R284). -/
def fetchSecond (s : State) : Res Byte :=
  (fetchByte s).bind fun b s =>
    match b with
    | none => raise (.truncatedInput .pairSecond s.inPos) s
    | some v => .ok v s

/-- LZSS.MATCH: TAKEBIT, the pair, the copy (R283). -/
def matchToken (s : State) : Res Unit :=
  (takeBit s).bind fun _ s =>
    (fetchOrEnd .pairFirst s).bind fun b0 s =>
      (fetchSecond s).bind fun b1 s => copyRing (pairOffset b0 b1) (pairLength b1) 0 s

/-! ## The instructions -/

/-- LZSS.CTRL (R274). -/
def execLzssCtrl (s : State) : Host.Outcome State Fault Refusal := (controlByte s).toOutcome

/-- LZSS.LIT (R277). -/
def execLzssLit (s : State) : Host.Outcome State Fault Refusal := (literalToken s).toOutcome

/-- LZSS.MATCH (R283). -/
def execLzssMatch (s : State) : Host.Outcome State Fault Refusal := (matchToken s).toOutcome

end Sys2Proof.Machine
end

