-- ==== Sys2Proof/Machine/Command.lean ====
section
/-! DEFINITION. The three host commands (45_host_commands.md R311 to R317). -/

namespace Sys2Proof.Machine

/-- CODEC is 3 or 5 (R312, R313). -/
def State.codecLegal (s : State) : Bool := s.codec == Config.codecLzss || s.codec == Config.codecLh5

/-- A table unit with CONST_X <- (0, 0). -/
def TableUnit.constCleared (u : TableUnit) : TableUnit := { u with constV := false, constSym := 0 }

/-- The initialisation of CMD.START, whichever codec is selected (R314; 10_state.md R39, last column). OUT is
unspecified there: no cell has a value until EMIT writes it. RING lists nothing: every cell invalid, or every cell
LZSS_RING_FILL. -/
def State.jobStart (s : State) : State :=
  { s with
    faultCode := 0#3
    faultSub := 0#4
    faultInfo := 0#32
    outCount := 0#32
    bitpos := 0
    inPos := 0#32
    phase := .blockHeader
    blockCount := 0#16
    tabT := s.tabT.constCleared
    tabC := s.tabC.constCleared
    tabP := s.tabP.constCleared
    ctrl := 0#8
    ctrlLeft := 0#4
    ringW := Config.ringBias
    ringMem := []
    outMem := [] }

/-- CMD.START (R314): ignored in RUN; a reserved CODEC raises UnsupportedCompression after the initialisation (R313). -/
def startJob (s : State) : Res Unit :=
  if s.state = .run then .ok () s
  else
    let s := s.jobStart
    if s.codecLegal then .ok () { s with state := .run }
    else raise (.unsupportedCompression s.codec) s

/-- CMD.RESET (R316): every register at its value after reset, in any state; IN stays the host's (10_state.md R39), OUT
has no value. The parameters and the model's own fields stay. -/
def resetBlock (s : State) : State :=
  { State.reset with
    params := s.params
    inMem := s.inMem
    host := s.host
    hostData := s.hostData
    freeIx := s.freeIx
    unitResult := s.unitResult
    lenIndex := s.lenIndex }

/-- CMD.ABORT (R317): in RUN, STATE <- IDLE, the fault registers 0, OUT unspecified (no cell has a value); in the other
states nothing. -/
def abortJob (s : State) : State :=
  if s.state = .run then
    { s with state := .idle, faultCode := 0#3, faultSub := 0#4, faultInfo := 0#32, outMem := [] }
  else s

/-! ## The instructions -/

/-- CMD.RESET (R316). -/
def execCmdReset (s : State) : Host.Outcome State Fault Refusal := .next (resetBlock s)

/-- CMD.START (R314). -/
def execCmdStart (s : State) : Host.Outcome State Fault Refusal := (startJob s).toOutcome

/-- CMD.ABORT (R317). -/
def execCmdAbort (s : State) : Host.Outcome State Fault Refusal := .next (abortJob s)

end Sys2Proof.Machine
end

