-- ==== Sys2Proof/Machine/Host.lean ====
section
/-! DEFINITION. What the host may read and write, and when (45_host_commands.md R318). -/

namespace Sys2Proof.Machine

/-- The defined value of a host read; none where R318 says the value is unspecified (while RUN, and OUT outside DONE or
beyond OUT_COUNT), for BITPOS and IN_POS after a fault (93_implementation_defined.md U2, log 11), and for IN at or
beyond IN_LEN (20_memory.md R60). OUT in DONE is readable below OUT_COUNT whatever EXPANDED_SIZE has become. -/
def State.readable (s : State) : HostObject → Option Nat
  | .codec => some s.codec.toNat
  | .inLen => some s.inLen.toNat
  | .expandedSize => some s.expandedSize.toNat
  | .state => some s.state.code
  | .outCount => if s.state = .run then none else some s.outCount.toNat
  | .faultCode => if s.state = .run then none else some s.faultCode.toNat
  | .faultSub => if s.state = .run then none else some s.faultSub.toNat
  | .faultInfo => if s.state = .run then none else some s.faultInfo.toNat
  | .bitpos => if s.state = .run ∨ s.state = .fault then none else some s.bitpos
  | .inPos => if s.state = .run ∨ s.state = .fault then none else some s.inPos.toNat
  | .inByte a => if a < s.inLen then (s.memRead .inn a.toNat).map BitVec.toNat else none
  | .outByte a =>
    if s.state = .done ∧ a < s.outCount then (s.memRead .out a.toNat).map BitVec.toNat else none
  | .internals => none

/-- An unspecified value cut to the width of what is read; BITPOS has no width (10_state.md R21, R22). -/
def HostObject.narrow (v : Nat) : HostObject → Nat
  | .codec => v % 2 ^ 3
  | .inLen => v % 2 ^ 32
  | .expandedSize => v % 2 ^ 32
  | .state => v % 2 ^ 2
  | .outCount => v % 2 ^ 32
  | .faultCode => v % 2 ^ 3
  | .faultSub => v % 2 ^ 4
  | .faultInfo => v % 2 ^ 32
  | .bitpos => v
  | .inPos => v % 2 ^ 32
  | .inByte _ => v % 2 ^ 8
  | .outByte _ => v % 2 ^ 8
  | .internals => v

/-- The state after a read that returned v. -/
def State.returned (s : State) (v : Nat) : State := { s with hostData := v }

/-- A host read: its defined value, or a free value drawn with freeIx (log 9); what is not accessible is refused. -/
def hostRead (o : HostObject) (s : State) : Host.Outcome State Fault Refusal :=
  if o = .internals then .refused .notAccessible
  else
    match s.readable o with
    | some v => .next (s.returned v)
    | none => .next { s.returned (o.narrow (Config.unspecified s.freeIx)) with freeIx := s.freeIx + 1 }

/-- A host write to a job register: "read only; a write is ignored" while RUN (R318). -/
def hostWriteRegister (s written : State) : Host.Outcome State Fault Refusal :=
  if s.state = .run then .next s else .next written

/-- A host access other than a command (R318). -/
def hostAccess (a : HostAction) (s : State) : Host.Outcome State Fault Refusal :=
  match a with
  | .wait => .next s
  | .command _ => .next s
  | .writeCodec v => hostWriteRegister s { s with codec := v }
  | .writeInLen v => hostWriteRegister s { s with inLen := v }
  | .writeExpandedSize v => hostWriteRegister s { s with expandedSize := v }
  | .writeIn a v =>
    if s.state = .run then .refused .hostWroteInDuringRun else .next (s.memWrite .inn a.toNat v)
  | .writeOut _ _ => .refused .hostWroteOut
  | .read o => hostRead o s

end Sys2Proof.Machine
end

