-- ==== Sys2Proof/Machine/Fetch.lean ====
section
/-! DEFINITION. Step selection: where the block stands in its stream and which operation that is (43_lh5_streaming.md
R231, 44_lzss.md R271); and the state in which a word of the opcode table is what the next step runs (log 7, 12). -/

namespace Sys2Proof.Machine

/-- Where the LH5 decoder stands: PHASE selects, not BLOCK_COUNT = 0 (R231 lines 2, 3). -/
def State.lh5Selector (s : State) : Selector :=
  match s.phase with
  | .blockHeader => ⟨.header, 0⟩
  | .streaming => ⟨.symbol, 0⟩

/-- Where the LZSS decoder stands: CTRL_LEFT = 0, or the decision bit CTRL[7] (R271 lines 2 to 4). -/
def State.lzssSelector (s : State) : Selector :=
  if s.ctrlLeft = 0#4 then ⟨.control, 0⟩ else ⟨.token, s.decisionBit.toNat⟩

/-- The decoder's answer as a selection; a selector of this file always names an operation. -/
def selectDecoded (sel : Selector) : Selection :=
  match decode sel with
  | .ok i => .operation i
  | .error _ => .noDecoder

/-- Step selection, tested in the order of R231 and R271: STATE, the codec, completion, then the selector. -/
def State.selection (s : State) : Selection :=
  if s.state ≠ .run then .quiescent
  else if s.codec = Config.codecLh5 then
    if s.outCount = s.expandedSize then .finish else selectDecoded s.lh5Selector
  else if s.codec = Config.codecLzss then
    if s.outCount = s.expandedSize then .finish else selectDecoded s.lzssSelector
  else .noDecoder

/-! ## A word of the opcode table as the next operation (log 12) -/

/-- IN holding the given bits, and IN_LEN their number of bytes. -/
def State.withStream (s : State) (bits : List Bool) : State :=
  let bytes := packBits bits
  { s with
    inLen := BitVec.ofNat 32 bytes.length
    inMem := ((List.range bytes.length).zip bytes).filter fun cell => decide (s.blank .inn ≠ some cell.2) }

/-- A running job with no output yet and no host action pending. -/
def State.running (s : State) (codec : BitVec 3) : State :=
  { s with codec := codec, state := .run, expandedSize := 1#32, outCount := 0#32, host := [], bitpos := 0, inPos := 0#32 }

/-- A job at an LH5 block header that starts with BLKCNT = 1 and the given bits. -/
def State.atHeader (s : State) (bits : List Bool) : State :=
  { (s.running Config.codecLh5).withStream (bitsOf 16 1 ++ bits) with phase := .blockHeader }

/-- A job at an LH5 symbol, with the C table single-symbol c and the P table single-symbol 0. -/
def State.atSymbol (s : State) (c : Nat) : State :=
  { s.running Config.codecLh5 with
    phase := .streaming
    blockCount := 1#16
    tabC := { s.tabC with constV := true, constSym := c }
    tabP := { s.tabP with constV := true, constSym := 0 } }

/-- A job at an LZSS token with the given decision bit, its bytes 0. -/
def State.atToken (s : State) (bit : Bool) : State :=
  { (s.running Config.codecLzss).withStream (List.replicate 16 false) with
    ctrl := if bit then 0x80#8 else 0#8
    ctrlLeft := 1#4 }

/-- A header whose first C-section item is the one T symbol t selects: T single-symbol t, CN = 1. -/
def itemHeader (t : Nat) : List Bool := bitsOf 5 0 ++ bitsOf 5 t ++ bitsOf 9 1

/-- A header whose first T length code is the 8 bits w: TN = 1. -/
def lengthHeader (w : Nat) : List Bool := bitsOf 5 1 ++ bitsOf 8 w

/-- The state in which the next step runs the operation that the word is: a whole step for a token, and the step that
runs it as a part for a C symbol (LH5.SYM), a T symbol and a length code (LH5.HDR). -/
def State.placeWord (s : State) (nbits w : Nat) : State :=
  match decodeTableWord nbits w with
  | some .lzssLit => s.atToken true
  | some .lzssMatch => s.atToken false
  | some (.lh5Lit c) => s.atSymbol c
  | some (.lh5Match c) => s.atSymbol c
  | some .clZero1 => s.atHeader (itemHeader 0)
  | some .clZrun4 => s.atHeader (itemHeader 1)
  | some .clZrun9 => s.atHeader (itemHeader 2)
  | some (.clLen t) => s.atHeader (itemHeader t)
  | some .lcLen => s.atHeader (lengthHeader w)
  | _ => s

end Sys2Proof.Machine
end

