-- ==== Sys2Proof/Machine/Dispatch.lean ====
section
/-! DEFINITION. One meaning per operation of spec/opcode_table.json. -/

namespace Sys2Proof.Machine

def exec (i : Instr) (s : State) : Host.Outcome State Fault Refusal :=
  match i with
  | .brInit => Sys2Proof.Machine.execBrInit s
  | .brPeek n => Sys2Proof.Machine.execBrPeek n s
  | .brConsume n => Sys2Proof.Machine.execBrConsume n s
  | .brGet n => Sys2Proof.Machine.execBrGet n s
  | .htBuild x => Sys2Proof.Machine.execHtBuild x s
  | .htConst x c => Sys2Proof.Machine.execHtConst x c s
  | .htDecode x => Sys2Proof.Machine.execHtDecode x s
  | .lh5Hdr => Sys2Proof.Machine.execLh5Hdr s
  | .lh5Blkcnt => Sys2Proof.Machine.execLh5Blkcnt s
  | .lh5Tlen => Sys2Proof.Machine.execLh5Tlen s
  | .lcLen => Sys2Proof.Machine.execLcLen s
  | .lcTskip => Sys2Proof.Machine.execLcTskip s
  | .lh5Clen => Sys2Proof.Machine.execLh5Clen s
  | .clZero1 => Sys2Proof.Machine.execClZero1 s
  | .clZrun4 => Sys2Proof.Machine.execClZrun4 s
  | .clZrun9 => Sys2Proof.Machine.execClZrun9 s
  | .clLen t => Sys2Proof.Machine.execClLen t s
  | .lh5Plen => Sys2Proof.Machine.execLh5Plen s
  | .lh5Sym => Sys2Proof.Machine.execLh5Sym s
  | .lh5Lit c => Sys2Proof.Machine.execLh5Lit c s
  | .lh5Match c => Sys2Proof.Machine.execLh5Match c s
  | .lh5Dist => Sys2Proof.Machine.execLh5Dist s
  | .lzssCtrl => Sys2Proof.Machine.execLzssCtrl s
  | .lzssLit => Sys2Proof.Machine.execLzssLit s
  | .lzssMatch => Sys2Proof.Machine.execLzssMatch s
  | .cmdReset => Sys2Proof.Machine.execCmdReset s
  | .cmdStart => Sys2Proof.Machine.execCmdStart s
  | .cmdAbort => Sys2Proof.Machine.execCmdAbort s

end Sys2Proof.Machine
end

