-- ==== Sys2Proof/Machine/Turn.lean ====
section
/-! DEFINITION. One turn of the machine: the host's next action, or one step of the block (00_scope.md R14,
45_host_commands.md R310, 60_exceptions.md R346; log 6). -/

namespace Sys2Proof.Machine

/-- One step of the block: the selected operation, the finish step (45_host_commands.md R315), or nothing when STATE is
not RUN (R311). -/
def blockStep (s : State) : Host.Outcome State Fault Refusal :=
  match s.selection with
  | .operation i => exec i s
  | .finish => .next s.finish
  | .quiescent => .next s
  | .noDecoder => .fault .noDecoderSelected

/-- The operation of a command (30_encoding.md R90). -/
def HostCommand.instr : HostCommand → Instr
  | .reset => .cmdReset
  | .start => .cmdStart
  | .abort => .cmdAbort

/-- One action of the host; with `wait` the block takes its step. -/
def hostTurn (a : HostAction) (s : State) : Host.Outcome State Fault Refusal :=
  match a with
  | .wait => blockStep s
  | .command c => exec c.instr s
  | a => hostAccess a s

/-- One turn: the next of the host's actions, which is then gone, or a step of the block when there is none. -/
def turn (s : State) : Host.Outcome State Fault Refusal :=
  match s.host with
  | [] => blockStep s
  | a :: rest => hostTurn a { s with host := rest }

end Sys2Proof.Machine
end

