-- ==== Sys2Proof/Machine/Step.lean ====
section
/-! DEFINITION. The step of the machine, and the state in which a word of the opcode table is its next operation. -/

namespace Sys2Proof.Machine

/-- One step (Machine/Turn.lean). -/
def step (s : State) : Host.Outcome State Fault Refusal := turn s

/-- The state in which the next step runs the word of the opcode table (Machine/Fetch.lean, log 7, 12). -/
def State.withFetchWord (s : State) (nbits w : Nat) : State := s.placeWord nbits w

end Sys2Proof.Machine
end

