-- ==== Sys2Proof/Safety.lean ====
section
/-! DEFINITION. What counts as a safe run, in the terms the statements use: the spec's own formulas for stream fields
and weights, and the invariants of the machine. -/

namespace Sys2Proof

/-- The C-section item exists and its T symbol has a code (42_lh5_block_header.md R207 to R210). -/
def ClenItem.codable (lensT : List Nat) : ClenItem → Prop
  | .zero1 => 0 < lensT.getD 0 0
  | .zrun4 k => 0 < lensT.getD 1 0 ∧ 3 ≤ k ∧ k ≤ 18
  | .zrun9 k => 0 < lensT.getD 2 0 ∧ 20 ≤ k ∧ k ≤ 531
  | .len l => 1 ≤ l ∧ l ≤ 16 ∧ 0 < lensT.getD (l + 2) 0

end Sys2Proof

namespace Sys2Proof.Machine

/-! ## The spec's formulas -/

/-- The value of the n stream bits at the cursor, sum for i in 0..n-1 of SBIT(BITPOS + i) * 2^(n-1-i)
(40_bitreader.md R132). -/
def State.fieldValue (s : State) (n : Nat) : Nat :=
  ∑ i ∈ Finset.range n, (s.streamBit (s.bitpos + i)).toNat * 2 ^ (n - 1 - i)

/-- The stream at the cursor begins with these bits (00_scope.md R12). -/
def State.reads (s : State) (bits : List Bool) : Prop :=
  ∀ i, i < bits.length → s.streamBit (s.bitpos + i) = bits.getD i false

/-- The sum of the weights 2^(16-len) of the coded symbols (10_state.md R32, 41_huffman_table.md R157). -/
def TableUnit.weight (u : TableUnit) : Nat := (u.lens.map fun l => if l = 0 then 0 else 2 ^ (16 - l)).sum

/-- Table X gives symbol v at the cursor, with w bits: a single-symbol table gives its symbol with none, a built table
the symbol of the 16-bit window with its length (41_huffman_table.md R170). -/
def State.codeAt (s : State) (x : Alphabet) (v w : Nat) : Prop :=
  ((s.unit x).constV = true ∧ v = (s.unit x).constSym ∧ w = 0) ∨
    ((s.unit x).constV = false ∧ (s.unit x).symbolAt x (s.fieldValue 16) = some v ∧ w = (s.unit x).lenOf v)

/-- The distance at the cursor: distance code p of w bits, and then its p - 1 extra bits (43_lh5_streaming.md R239). -/
def State.distanceAt (s : State) (p w : Nat) : Nat :=
  if p = 0 then 0 else 2 ^ (p - 1) + ({ s with bitpos := s.bitpos + w } : State).fieldValue (p - 1)

/-- After the given bits the stream holds a length code of value 17 + j: thirteen ones and j more, counted to the
sixteenth bit, and then, for j < 3, a 0 (42_lh5_block_header.md R198). -/
def State.readsLongCode (s : State) (before : List Bool) (j : Nat) : Prop :=
  s.reads (before ++ List.replicate (13 + j) true) ∧
    (j < 3 → s.streamBit (s.bitpos + before.length + (13 + j)) = false)

/-- What 60_exceptions.md R350 promises of state t after MalformedTable(sub, info) raised by an operation that started in
state s and emitted nothing; it says nothing of what that rule leaves unspecified. -/
def State.malformed (s t : State) (sub : BitVec 4) (info : Nat) : Prop :=
  t.state = .fault ∧ t.faultCode = 1#3 ∧ t.faultSub = sub ∧ t.faultInfo = BitVec.ofNat 32 info ∧
    t.codec = s.codec ∧ t.inLen = s.inLen ∧ t.expandedSize = s.expandedSize ∧ t.inMem = s.inMem ∧
    t.outCount = s.outCount

/-- Table T was built from the lengths lensT: every 16-bit window decodes to the symbol whose canonical code is its
prefix (41_huffman_table.md R171). -/
def State.decodesT (s : State) (lensT : List Nat) : Prop :=
  s.tabT.constV = false ∧ s.tabT.lens = lensT ∧
    (∀ v w, v < 19 → w < 2 ^ 16 → 0 < lensT.getD v 0 →
      (bitsOf 16 w).take (lensT.getD v 0) = codeBits lensT v → s.tabT.symbolAt .t w = some v) ∧
    ∀ v, lensT.getD v 0 ≤ 16

/-- The zero run of T symbol c <= 2 with field f (42_lh5_block_header.md R207 to R209). -/
def zeroRunOf (c f : Nat) : Nat := if c = 0 then 1 else if c = 1 then f + 3 else f + 20

/-- The width of that field. -/
def zeroRunBits (c : Nat) : Nat := if c = 0 then 0 else if c = 1 then 4 else 9

/-- The values 10_state.md R39 gives for the state after reset; what that rule calls unspecified is not here. -/
def State.resetValues (s : State) : Prop :=
  s.codec = 0#3 ∧ s.inLen = 0#32 ∧ s.expandedSize = 0#32 ∧ s.state = .idle ∧ s.outCount = 0#32 ∧
    s.faultCode = 0#3 ∧ s.faultSub = 0#4 ∧ s.faultInfo = 0#32 ∧ s.bitpos = 0 ∧ s.inPos = 0#32 ∧
    s.phase = .blockHeader ∧ s.blockCount = 0#16 ∧
    (∀ x : Alphabet, (s.unit x).constV = false ∧ (s.unit x).constSym = 0) ∧
    s.ctrl = 0#8 ∧ s.ctrlLeft = 0#4 ∧ s.ringW = 0xFEE#12

/-! ## Invariants -/

/-- Every byte space is in its canonical form. -/
def State.memoriesCanonical (s : State) : Prop :=
  ∀ space : Space, Memory.wf (s.blank space) (s.memory space) = true

/-- The arrays of unit X have the sizes 10_state.md R28 gives, and its lengths are 0..16 (R29). -/
def TableUnit.shaped (x : Alphabet) (u : TableUnit) : Prop :=
  u.len.length = x.size ∧ u.table.length = 2 ^ x.tableBits ∧ u.left.length = x.size - 1 ∧
    u.right.length = x.size - 1 ∧ ∀ l ∈ u.lens, l ≤ Config.maxLen

/-- All three units have their sizes (10_state.md R28; 41_huffman_table.md R176). -/
def State.tablesShaped (s : State) : Prop := ∀ x : Alphabet, (s.unit x).shaped x

/-- The legal values of a running job (10_state.md R22, R26, R35; 45_host_commands.md R311). -/
def State.runLegal (s : State) : Prop :=
  s.state = .run →
    s.codecLegal = true ∧ s.outCount ≤ s.expandedSize ∧ s.inPos ≤ s.inLen ∧ s.ctrlLeft ≤ 8#4 ∧
      (s.phase = .blockHeader → s.blockCount = 0#16)

/-- The fault registers say 0 in IDLE, RUN and DONE and a cause of 60_exceptions.md R341 in FAULT; 5 and 7 are never
produced. -/
def State.faultRegistersLegal (s : State) : Prop :=
  (s.state ≠ .fault → s.faultCode = 0#3 ∧ s.faultSub = 0#4 ∧ s.faultInfo = 0#32) ∧
    (s.state = .fault → s.faultCode ≠ 0#3 ∧ s.faultCode ≠ 5#3 ∧ s.faultCode ≠ 7#3)

/-- While a job runs and when it is done, the OUT cells that hold a value are exactly those below OUT_COUNT
(20_memory.md R61, 45_host_commands.md R315). -/
def State.outWritten (s : State) : Prop :=
  s.state = .run ∨ s.state = .done → ∀ a : Nat, (s.memRead .out a).isSome = true ↔ a < s.outCount.toNat

/-- The ring cell of output byte j: (j + 0xFEE) mod 4096 (44_lzss.md R281). -/
def ringCellOf (j : Nat) : Nat := (j + 0xFEE) % 4096

/-- In an LZSS job RING_W is where the next output byte goes, and RING holds the last min(OUT_COUNT, 4096) output bytes
(44_lzss.md R280, R281). -/
def State.ringMirrors (s : State) : Prop :=
  s.state = .run → s.codec = Config.codecLzss →
    s.ringW.toNat = ringCellOf s.outCount.toNat ∧
      ∀ j : Nat, j < s.outCount.toNat → s.outCount.toNat ≤ j + 4096 →
        s.memRead .ring (ringCellOf j) = s.memRead .out j

/-- Unit X decodes every 16-bit window: a single-symbol table of a symbol of X, or a built table whose every path ends
in a coded symbol (10_state.md R32, 41_huffman_table.md R162, R170). -/
def TableUnit.decodes (x : Alphabet) (u : TableUnit) : Prop :=
  (u.constV = true ∧ u.constSym < x.size) ∨
    (u.constV = false ∧
      ∀ w : Nat, w < 2 ^ 16 → ∃ v, u.symbolAt x w = some v ∧ v < x.size ∧ 1 ≤ u.lenOf v ∧ u.lenOf v ≤ 16)

/-- In Streaming the C and P tables decode (10_state.md R33, 70_reset_and_hazards.md R395). -/
def State.tablesDecode (s : State) : Prop :=
  s.state = .run → s.phase = .streaming → (s.unit .c).decodes .c ∧ (s.unit .p).decodes .p

/-- RING has the cells 0..4095 only (20_memory.md R62; 60_exceptions.md R351). -/
def State.ringInBounds (s : State) : Prop := ∀ cell ∈ s.ringMem, cell.1 < Config.ringSize

/-- The next turn is the block's or a command's, not a host access. -/
def State.noHostAccess (s : State) : Prop :=
  s.host = [] ∨ (∃ rest, s.host = .wait :: rest) ∨ ∃ c rest, s.host = .command c :: rest

/-- The next turn is a step of the block: the host has no action pending, or `wait` (log 6). -/
def State.blockTurn (s : State) : Prop := s.host = [] ∨ s.host.head? = some .wait

/-- The state in which the block's step of such a turn starts: a pending `wait` is gone (log 6). -/
def State.blockStart (s : State) : State := { s with host := s.host.tail }

/-! ## The raises of a running job (60_exceptions.md R343, R350) -/

/-- A part of the header at the cursor ends in FAULT, the parts before it in RUN (42_lh5_block_header.md R192). -/
def State.headerRaises (s : State) : Prop :=
  ∃ s1 s2, exec .lh5Blkcnt s = .next s1 ∧ exec .lh5Tlen s1 = .next s2 ∧
    (s2.state = .fault ∨ (s2.state = .run ∧ ∃ s3, exec .lh5Clen s2 = .next s3 ∧
      (s3.state = .fault ∨ (s3.state = .run ∧ ∃ s4, exec .lh5Plen s3 = .next s4 ∧ s4.state = .fault))))

/-- The C symbol at the cursor is a match whose offset is above OUT_COUNT (43_lh5_streaming.md R241). -/
def State.symbolRaises (s : State) : Prop :=
  ∃ c w p v, s.codeAt .c c w ∧ 256 ≤ c ∧ c ≤ 509 ∧
    ({ s with bitpos := s.bitpos + w } : State).codeAt .p p v ∧
    s.outCount.toNat < ({ s with bitpos := s.bitpos + w } : State).distanceAt p v + 1

/-- The source of the match with the pair b0, b1 has a first cell never written, before the copy overtakes it and before
the output is full (44_lzss.md R283, R287). -/
def State.readsUnwritten (s : State) (b0 b1 : Byte) : Prop :=
  ∃ f d k : Nat, f = b0.toNat + 256 * (b1.toNat / 16) ∧ 1 ≤ d ∧ d ≤ 4096 ∧ (f + d) % 4096 = s.ringW.toNat ∧
    k < b1.toNat % 16 + 3 ∧ k < d ∧ s.outCount.toNat + k < s.expandedSize.toNat ∧
    (∀ j, j < k → s.memRead .ring ((f + j) % 4096) ≠ none) ∧ s.memRead .ring ((f + k) % 4096) = none

/-- The LZSS token or control byte at the cursor raises: exhaustion under policy fault (44_lzss.md R290), a pair cut short
(R284), or a source cell never written (R287). -/
def State.tokenRaises (s : State) : Prop :=
  (s.inPos = s.inLen ∧ s.params.eofPolicy = .fault) ∨
    (s.ctrlLeft ≠ 0#4 ∧ s.ctrl.getLsbD 7 = false ∧
      (s.inPos.toNat + 1 = s.inLen.toNat ∨
        (s.inPos.toNat + 2 ≤ s.inLen.toNat ∧
          ∃ b0 b1, s.memRead .inn s.inPos.toNat = some b0 ∧ s.memRead .inn (s.inPos.toNat + 1) = some b1 ∧
            s.readsUnwritten b0 b1)))

/-- The operation that step selection finds in a running job raises a fault. -/
def State.raises (s : State) : Prop :=
  (s.codec = Config.codecLh5 ∧ s.phase = .blockHeader ∧ s.headerRaises) ∨
    (s.codec = Config.codecLh5 ∧ s.phase = .streaming ∧ s.symbolRaises) ∨
    (s.codec = Config.codecLzss ∧ s.tokenRaises)

/-- How far a running job is from its end: twice the bytes still to emit, and one for a header or a control byte that
is read first (43_lh5_streaming.md R251, 44_lzss.md R291). -/
def State.remaining (s : State) : Nat :=
  2 * (s.expandedSize.toNat - s.outCount.toNat) +
    (if s.codec = Config.codecLh5 then (if s.phase = .blockHeader then 1 else 0)
      else if s.ctrlLeft = 0#4 then 1 else 0)

/-! ## Two runs of one job (45_host_commands.md R320) -/

/-- Two table units that no operation of a job can tell apart: the same CONST_X, and the same contents where they are a
built table that is in use. -/
def TableUnit.sameFor (inUse : Bool) (u v : TableUnit) : Prop :=
  u.constV = v.constV ∧ u.constSym = v.constSym ∧ (inUse = true → u.constV = false → u = v)

/-- The tables C and P are in use in Streaming (10_state.md R33). -/
def State.tablesInUse (s : State) : Bool := decide (s.phase = .streaming)

/-- Two states of one and the same job: all that the job reads or the host may read of it is equal. -/
def State.sameJob (s t : State) : Prop :=
  s.params = t.params ∧ s.codec = t.codec ∧ s.inLen = t.inLen ∧ s.expandedSize = t.expandedSize ∧
    s.state = t.state ∧ s.outCount = t.outCount ∧ s.faultCode = t.faultCode ∧ s.faultSub = t.faultSub ∧
    s.faultInfo = t.faultInfo ∧ s.bitpos = t.bitpos ∧ s.inPos = t.inPos ∧ s.phase = t.phase ∧
    s.blockCount = t.blockCount ∧ s.ctrl = t.ctrl ∧ s.ctrlLeft = t.ctrlLeft ∧ s.ringW = t.ringW ∧
    s.inMem = t.inMem ∧ s.outMem = t.outMem ∧ s.ringMem = t.ringMem ∧
    TableUnit.sameFor false s.tabT t.tabT ∧ TableUnit.sameFor s.tablesInUse s.tabC t.tabC ∧
    TableUnit.sameFor s.tablesInUse s.tabP t.tabP

end Sys2Proof.Machine
end

