-- ==== Sys2Proof/Certificates/Slice0/Obligations.lean ====
section
/-! DEFINITION. The statements about the machine, from the numbered rules of spec/. A record update in a conclusion is
also the frame: every field it does not name is unchanged, the bytes of IN, OUT and RING with it. -/

open Sys2Proof Sys2Proof.Machine

/-! ## The BitReader (40_bitreader.md) -/

/-- R131, R133: BR.INIT sets BITPOS to 0; BR.CONSUME n adds n to it; neither changes anything else. -/
def Obligations.BrInitAndConsumeMoveCursor : Prop :=
  ∀ s : State, exec .brInit s = .next { s with bitpos := 0 } ∧
    ∀ n : Nat, n ≤ 16 → exec (.brConsume n) s = .next { s with bitpos := s.bitpos + n }

/-- R132, R134: BR.PEEK n returns the sum of SBIT(BITPOS + i) * 2^(n-1-i) and changes nothing else, 0 past the end of IN;
BR.GET n returns the same and adds n to BITPOS. R135: n > 16 has no meaning, and the model refuses it in BR.PEEK,
BR.CONSUME and BR.GET (log 13). (unitResult is where this model keeps a unit operation's result: its own choice,
log 8.) -/
def Obligations.BrPeekAndGetReturnStreamBits : Prop :=
  ∀ (s : State) (n : Nat),
    (n ≤ 16 →
      exec (.brPeek n) s = .next { s with unitResult := s.fieldValue n } ∧
        exec (.brGet n) s = .next { s with unitResult := s.fieldValue n, bitpos := s.bitpos + n } ∧
        (8 * s.inLen.toNat ≤ s.bitpos → exec (.brPeek n) s = .next { s with unitResult := 0 })) ∧
    (16 < n →
      exec (.brPeek n) s = .refused .readTooWide ∧ exec (.brConsume n) s = .refused .readTooWide ∧
        exec (.brGet n) s = .refused .readTooWide)

/-! ## The table units (41_huffman_table.md) -/

/-- R156, R157: a length above 16 is rejected, the lowest symbol's reported; then a length set whose exact weights do not
sum to 65536 is rejected with the total; no table entry is written. (That the registers R350 leaves unspecified after a
fault are unchanged is the model's choice, log 10.) -/
def Obligations.HtBuildRejectsBadLengths : Prop :=
  ∀ (x : Alphabet) (s : State),
    (∀ i, 16 < (s.unit x).lens.getD i 0 → (∀ j, j < i → (s.unit x).lens.getD j 0 ≤ 16) →
      exec (.htBuild x) s = .next
        { s with
          faultCode := 1#3
          faultSub := 1#4
          faultInfo := BitVec.ofNat 32 ((s.unit x).lens.getD i 0)
          state := .fault }) ∧
    ((∀ l ∈ (s.unit x).lens, l ≤ 16) → (s.unit x).weight ≠ 65536 →
      exec (.htBuild x) s = .next
        { s with
          faultCode := 1#3
          faultSub := 2#4
          faultInfo := BitVec.ofNat 32 (s.unit x).weight
          state := .fault })

/-- R160: where every code fits the flat table, BUILD completes, and every entry holds the symbol whose code is a prefix
of the entry's index. -/
def Obligations.HtBuildFillsFlatTable : Prop :=
  ∀ (x : Alphabet) (s : State), (s.unit x).len.length = x.size → (∀ l ∈ (s.unit x).lens, l ≤ x.tableBits) →
    (s.unit x).weight = 65536 →
      ∃ u : TableUnit, exec (.htBuild x) s = .next (s.setUnit x u) ∧ u.len = (s.unit x).len ∧ u.constV = false ∧
        u.constSym = (s.unit x).constSym ∧ u.avail = x.size ∧
        ∀ j, j < 2 ^ x.tableBits → ∃ v, u.table.getD j none = some v ∧ v < x.size ∧ 0 < u.lenOf v ∧
          (bitsOf x.tableBits j).take (u.lenOf v) = codeBits u.lens v

/-- R155, R162, R163: every complete length set builds: no fault, no NIL entry, no node id above 2N-2, and every
allocated node has both children. -/
def Obligations.HtBuildAcceptsCompleteLengths : Prop :=
  ∀ (x : Alphabet) (s : State), (s.unit x).len.length = x.size → (∀ l ∈ (s.unit x).lens, l ≤ 16) →
    (s.unit x).weight = 65536 →
      ∃ u : TableUnit, exec (.htBuild x) s = .next (s.setUnit x u) ∧ u.len = (s.unit x).len ∧ u.constV = false ∧
        u.constSym = (s.unit x).constSym ∧ u.shaped x ∧ (∀ e ∈ u.table, e ≠ none) ∧ x.size ≤ u.avail ∧
        u.avail ≤ 2 * x.size - 1 ∧
        ∀ d, x.size ≤ d → d < u.avail → u.readCell x (.left d) ≠ none ∧ u.readCell x (.right d) ≠ none

/-- R171: after BUILD, whatever stands at the cursor, DECODE(X) returns the unique coded symbol whose canonical code
(R151) is what the stream holds there, and advances BITPOS by its length. (unitResult: log 8.) -/
def Obligations.HtBuildDecodesCanonicalCode : Prop :=
  ∀ (x : Alphabet) (s : State), (s.unit x).len.length = x.size → (∀ l ∈ (s.unit x).lens, l ≤ 16) →
    (s.unit x).weight = 65536 →
      ∃ t : State, exec (.htBuild x) s = .next t ∧
        ∀ r : State, r.unit x = t.unit x →
          ∃ v, v < x.size ∧ 0 < (s.unit x).lenOf v ∧ r.reads (codeBits (s.unit x).lens v) ∧
            exec (.htDecode x) r =
              .next { r with unitResult := v, bitpos := r.bitpos + (s.unit x).lenOf v } ∧
            ∀ v', 0 < (s.unit x).lenOf v' → r.reads (codeBits (s.unit x).lens v') → v' = v

/-- R165: HT.CONST X, c zeroes LEN_X and sets CONST_X to (1, c), after which DECODE(X) returns c and consumes no bits;
outside the alphabet it raises CONST_SYMBOL with c. (That the registers R350 leaves unspecified after a fault are
unchanged is the model's choice, log 10.) -/
def Obligations.HtConstSetsOrRejects : Prop :=
  ∀ (x : Alphabet) (c : Nat) (s : State),
    (c < x.size → ∃ t : State, exec (.htConst x c) s = .next t ∧
      t = s.setUnit x { s.unit x with len := List.replicate x.size 0#5, constV := true, constSym := c } ∧
      decodeSymbol x t = .ok c t) ∧
    (x.size ≤ c → exec (.htConst x c) s = .next
      { s with faultCode := 1#3, faultSub := 5#4, faultInfo := BitVec.ofNat 32 c, state := .fault })

/-- R170: a single-symbol table returns its symbol and consumes no bits; on a built table the flat entry of the top TB
bits of PEEK(16) is the symbol, or a node whose LEFT or RIGHT entry, by the next bit, is; LEN_X of the symbol is
consumed. On a table that gives no symbol, some symbol of the alphabet is returned and its length consumed (log 23).
(unitResult: log 8.) -/
def Obligations.HtDecodeReadsConstEntryOrNode : Prop :=
  ∀ (x : Alphabet) (s : State),
    ((s.unit x).constV = true → exec (.htDecode x) s = .next { s with unitResult := (s.unit x).constSym }) ∧
    (∀ v, (s.unit x).constV = false → v < x.size →
      (s.unit x).table.getD (s.fieldValue 16 / 2 ^ (16 - x.tableBits)) none = some v →
        exec (.htDecode x) s =
          .next { s with unitResult := v, bitpos := s.bitpos + ((s.unit x).len.getD v 0#5).toNat }) ∧
    (∀ v d, (s.unit x).constV = false → v < x.size → x.size ≤ d →
      (s.unit x).table.getD (s.fieldValue 16 / 2 ^ (16 - x.tableBits)) none = some d →
      (if s.streamBit (s.bitpos + x.tableBits) then (s.unit x).right else (s.unit x).left).getD (d - x.size) none =
        some v →
        exec (.htDecode x) s =
          .next { s with unitResult := v, bitpos := s.bitpos + ((s.unit x).len.getD v 0#5).toNat }) ∧
    ((s.unit x).constV = false → (s.unit x).symbolAt x (s.fieldValue 16) = none →
      ∃ v, v < x.size ∧ exec (.htDecode x) s = .next
        { s with unitResult := v, bitpos := s.bitpos + (s.unit x).lenOf v, freeIx := s.freeIx + 1 })

/-! ## The block header (42_lh5_block_header.md) -/

/-- R193: LH5.BLKCNT reads 16 bits into BLOCK_COUNT. -/
def Obligations.BlkcntReadsSixteenBits : Prop :=
  ∀ s : State, exec .lh5Blkcnt s =
    .next { s with blockCount := BitVec.ofNat 16 (s.fieldValue 16), bitpos := s.bitpos + 16 }

/-- R198: a length code of value l at the cursor is returned and its 3 or l - 3 bits are consumed; thirteen or more ones,
counted to the sixteenth bit, raise LEN_GT_16 with the value 17..20, and nothing is consumed. R199: LC.TSKIP returns the
next two bits as a number. (unitResult: log 8; the state after the fault: log 10.) -/
def Obligations.LengthFieldsAreReadOrRejected : Prop :=
  ∀ s : State,
    (∀ l, l ≤ 16 → s.reads (lengthCodeBits l) →
      exec .lcLen s = .next { s with unitResult := l, bitpos := s.bitpos + (if l < 7 then 3 else l - 3) }) ∧
    (∀ j, j ≤ 3 → s.readsLongCode [] j →
      exec .lcLen s = .next
        { s with faultCode := 1#3, faultSub := 1#4, faultInfo := BitVec.ofNat 32 (17 + j), state := .fault }) ∧
    exec .lcTskip s = .next
      { s with
        unitResult := 2 * (s.streamBit s.bitpos).toNat + (s.streamBit (s.bitpos + 1)).toNat
        bitpos := s.bitpos + 2 }

/-- R196, R205, R214 with R165: count 0 and then a symbol of the alphabet makes the section's table a single-symbol
table; a field outside the alphabet raises CONST_SYMBOL. (BITPOS and the registers R350 leaves unspecified after that
fault: log 10.) -/
def Obligations.SectionWithCountZero : Prop :=
  ∀ (x : Alphabet) (c : Nat) (s : State), c < 2 ^ x.countBits → s.reads (bitsOf x.countBits 0 ++ bitsOf x.countBits c) →
    (c < x.size → exec x.sectionInstr s = .next
      (({ s with bitpos := s.bitpos + 2 * x.countBits } : State).setUnit x
        { s.unit x with len := List.replicate x.size 0#5, constV := true, constSym := c })) ∧
    (x.size ≤ c → exec x.sectionInstr s = .next
      { s with
        bitpos := s.bitpos + 2 * x.countBits
        faultCode := 1#3
        faultSub := 5#4
        faultInfo := BitVec.ofNat 32 c
        state := .fault })

/-- R197, R206, R215: a count above the alphabet's size raises COUNT with it, before any length is touched. (BITPOS and the
registers R350 leaves unspecified after that fault: log 10.) -/
def Obligations.SectionCountAboveAlphabet : Prop :=
  ∀ (x : Alphabet) (n : Nat) (s : State), x.size < n → n < 2 ^ x.countBits → s.reads (bitsOf x.countBits n) →
    exec x.sectionInstr s = .next
      { s with
        bitpos := s.bitpos + x.countBits
        faultCode := 1#3
        faultSub := 4#4
        faultInfo := BitVec.ofNat 32 n
        state := .fault }

/-- R196, R199: LH5.TLEN with a count of 1 or 2 reads that many length codes; with a count n of 3 or more it reads three,
the two-bit run z, and then codes from index 3 + z up to n, the z skipped lengths staying 0; then T is built. -/
def Obligations.TlenReadsLengthCodes : Prop :=
  ∀ s : State,
    (∀ ls : List Nat, 1 ≤ ls.length → ls.length ≤ 2 → (∀ l ∈ ls, l ≤ 16) →
      s.reads (bitsOf 5 ls.length ++ ls.flatMap lengthCodeBits) →
        exec .lh5Tlen s = exec (.htBuild .t)
          { s with
            bitpos := s.bitpos + 5 + (ls.flatMap lengthCodeBits).length
            tabT := { s.tabT with len := ls.map (BitVec.ofNat 5) ++ List.replicate (19 - ls.length) 0#5 } }) ∧
    (∀ (a b : List Nat) (z n : Nat), a.length = 3 → z ≤ 3 → 3 ≤ n → n ≤ 19 → b.length = n - (3 + z) →
      (∀ l ∈ a ++ b, l ≤ 16) →
      s.reads (bitsOf 5 n ++ a.flatMap lengthCodeBits ++ bitsOf 2 z ++ b.flatMap lengthCodeBits) →
        exec .lh5Tlen s = exec (.htBuild .t)
          { s with
            bitpos := s.bitpos + 7 + ((a ++ b).flatMap lengthCodeBits).length
            tabT := { s.tabT with
              len := (a ++ List.replicate z 0 ++ b).map (BitVec.ofNat 5) ++
                List.replicate (19 - (3 + z + b.length)) 0#5 } })

/-- R198 inside R196 and R214: a length code above 16 in the T or the P section raises LEN_GT_16 with its value 17..20,
whatever legal codes stand before it; what R350 promises after a fault holds. -/
def Obligations.SectionsRejectLongLengthCode : Prop :=
  ∀ (s : State) (j : Nat), j ≤ 3 →
    (∀ (n : Nat) (ls : List Nat), ls.length ≤ 2 → ls.length < n → n ≤ 19 → (∀ l ∈ ls, l ≤ 16) →
      s.readsLongCode (bitsOf 5 n ++ ls.flatMap lengthCodeBits) j →
        ∃ t : State, exec .lh5Tlen s = .next t ∧ s.malformed t 1#4 (17 + j)) ∧
    (∀ (n z : Nat) (a b : List Nat), a.length = 3 → z ≤ 3 → 3 + z + b.length < n → n ≤ 19 → (∀ l ∈ a ++ b, l ≤ 16) →
      s.readsLongCode (bitsOf 5 n ++ a.flatMap lengthCodeBits ++ bitsOf 2 z ++ b.flatMap lengthCodeBits) j →
        ∃ t : State, exec .lh5Tlen s = .next t ∧ s.malformed t 1#4 (17 + j)) ∧
    (∀ (n : Nat) (ls : List Nat), ls.length < n → n ≤ 14 → (∀ l ∈ ls, l ≤ 16) →
      s.readsLongCode (bitsOf 4 n ++ ls.flatMap lengthCodeBits) j →
        ∃ t : State, exec .lh5Plen s = .next t ∧ s.malformed t 1#4 (17 + j))

/-- R207 to R209, R211: the zero runs on their own, at running index i = lenIndex (the model's holder of i, log 8): within
510 the index advances by 1, f + 3 or f + 20; past 510 ZERO_RUN is raised with the index the run would have reached
(BITPOS and the rest after that fault: log 10). R210: CL.LEN with T symbol t stores the length t - 2 at index i and
advances i. -/
def Obligations.ItemsAdvanceIndexOrFault : Prop :=
  (∀ (s : State) (run n : Nat) (i : Instr),
      (i = .clZero1 ∧ n = 0 ∧ run = 1) ∨ (i = .clZrun4 ∧ n = 4 ∧ run = s.fieldValue 4 + 3) ∨
        (i = .clZrun9 ∧ n = 9 ∧ run = s.fieldValue 9 + 20) →
      (s.lenIndex + run ≤ 510 →
        exec i s = .next { s with bitpos := s.bitpos + n, lenIndex := s.lenIndex + run }) ∧
      (510 < s.lenIndex + run →
        exec i s = .next
          { s with
            bitpos := s.bitpos + n
            faultCode := 1#3
            faultSub := 6#4
            faultInfo := BitVec.ofNat 32 (s.lenIndex + run)
            state := .fault })) ∧
  ∀ (s : State) (t : Nat), 3 ≤ t → t ≤ 18 → s.lenIndex < 510 →
    exec (.clLen t) s = .next
      { s with
        tabC := { s.tabC with len := s.tabC.len.set s.lenIndex (BitVec.ofNat 5 (t - 2)) }
        lenIndex := s.lenIndex + 1 }

/-- R205, R207 to R212: with a built T table that decodes its canonical code, a count n and items of which every one
starts at an index below n and the last does not pass 510, LH5.CLEN reads the items and then builds C from the lengths
they stand for. -/
def Obligations.ClenReadsItems : Prop :=
  ∀ (s : State) (lensT : List Nat) (items : List ClenItem) (n : Nat),
    1 ≤ n → n ≤ 510 → s.decodesT lensT → (∀ item ∈ items, item.codable lensT) →
    (∀ k, k < items.length → ((items.take k).flatMap itemLens).length < n) →
    n ≤ (items.flatMap itemLens).length → (items.flatMap itemLens).length ≤ 510 →
    s.reads (bitsOf 9 n ++ items.flatMap (asmItem (some lensT))) →
      exec .lh5Clen s = exec (.htBuild .c)
        { s with
          bitpos := s.bitpos + 9 + (items.flatMap (asmItem (some lensT))).length
          tabC := { s.tabC with
            len := (items.flatMap itemLens).map (BitVec.ofNat 5) ++
              List.replicate (510 - (items.flatMap itemLens).length) 0#5 } }

/-- R211 inside R205: a zero run that passes 510 raises ZERO_RUN with the index it would have reached, whatever items
stand before it, with a built T table and (R212(b)) with a single-symbol one of symbol 1 or 2; what R350 promises after a
fault holds. -/
def Obligations.ClenRejectsRunPastAlphabet : Prop :=
  ∀ (s : State) (n : Nat), 1 ≤ n → n ≤ 510 →
    (∀ (lensT : List Nat) (items : List ClenItem) (last : ClenItem), s.decodesT lensT →
      (∀ item ∈ items ++ [last], item.codable lensT) →
      (∀ k, k ≤ items.length → ((items.take k).flatMap itemLens).length < n) →
      510 < ((items ++ [last]).flatMap itemLens).length →
      s.reads (bitsOf 9 n ++ (items ++ [last]).flatMap (asmItem (some lensT))) →
        ∃ t : State, exec .lh5Clen s = .next t ∧
          s.malformed t 6#4 ((items ++ [last]).flatMap itemLens).length) ∧
    (∀ (c : Nat) (fs : List Nat) (f : Nat), s.tabT.constV = true → s.tabT.constSym = c → c = 1 ∨ c = 2 →
      (∀ g ∈ fs ++ [f], g < 2 ^ zeroRunBits c) →
      (∀ k, k ≤ fs.length → ((fs.take k).map (zeroRunOf c)).sum < n) →
      510 < ((fs ++ [f]).map (zeroRunOf c)).sum →
      s.reads (bitsOf 9 n ++ (fs ++ [f]).flatMap (bitsOf (zeroRunBits c))) →
        ∃ t : State, exec .lh5Clen s = .next t ∧ s.malformed t 6#4 ((fs ++ [f]).map (zeroRunOf c)).sum)

/-- R212(b): with a single-symbol T table of symbol c >= 3, the n entries LEN_C[0..n-1] all become c - 2 and no bit beyond
the count is read; with c <= 2 each item is a zero run of which only the field (none, 4 or 9 bits) is read, and all
lengths stay 0; then C is built. -/
def Obligations.ClenWithSingleSymbolT : Prop :=
  ∀ (s : State) (n c : Nat), 1 ≤ n → n ≤ 510 → s.tabT.constV = true → s.tabT.constSym = c →
    (3 ≤ c → c ≤ 18 → s.reads (bitsOf 9 n) →
      exec .lh5Clen s = exec (.htBuild .c)
        { s with
          bitpos := s.bitpos + 9
          tabC := { s.tabC with
            len := List.replicate n (BitVec.ofNat 5 (c - 2)) ++ List.replicate (510 - n) 0#5 } }) ∧
    (∀ fs : List Nat, c ≤ 2 → (∀ f ∈ fs, f < 2 ^ zeroRunBits c) →
      (∀ k, k < fs.length → ((fs.take k).map (zeroRunOf c)).sum < n) →
      n ≤ (fs.map (zeroRunOf c)).sum → (fs.map (zeroRunOf c)).sum ≤ 510 →
      s.reads (bitsOf 9 n ++ fs.flatMap (bitsOf (zeroRunBits c))) →
        exec .lh5Clen s = exec (.htBuild .c)
          { s with
            bitpos := s.bitpos + 9 + fs.length * zeroRunBits c
            tabC := { s.tabC with len := List.replicate 510 0#5 } })

/-- R214: LH5.PLEN with a count n of 1..14 reads n length codes, with no escape, and then builds P. -/
def Obligations.PlenReadsLengthCodes : Prop :=
  ∀ (s : State) (ls : List Nat), 1 ≤ ls.length → ls.length ≤ 14 → (∀ l ∈ ls, l ≤ 16) →
    s.reads (bitsOf 4 ls.length ++ ls.flatMap lengthCodeBits) →
      exec .lh5Plen s = exec (.htBuild .p)
        { s with
          bitpos := s.bitpos + 4 + (ls.flatMap lengthCodeBits).length
          tabP := { s.tabP with len := ls.map (BitVec.ofNat 5) ++ List.replicate (14 - ls.length) 0#5 } }

/-- R192: LH5.HDR is its four parts in order and then PHASE <- STREAMING; the first part that raises ends it. -/
def Obligations.HdrRunsItsParts : Prop :=
  ∀ s s1 s2 : State, s.state = .run → exec .lh5Blkcnt s = .next s1 → exec .lh5Tlen s1 = .next s2 →
    (s2.state = .fault → exec .lh5Hdr s = .next s2) ∧
    (s2.state = .run → ∀ s3, exec .lh5Clen s2 = .next s3 →
      (s3.state = .fault → exec .lh5Hdr s = .next s3) ∧
      (s3.state = .run → ∀ s4, exec .lh5Plen s3 = .next s4 →
        (s4.state = .fault → exec .lh5Hdr s = .next s4) ∧
        (s4.state = .run → exec .lh5Hdr s = .next { s4 with phase := .streaming })))

/-- R221: a header of 52 zero bits: a block of 65536 symbols, three single-symbol tables with symbol 0, Streaming. -/
def Obligations.ZeroHeaderCompletes : Prop :=
  ∀ s : State, s.reads (List.replicate 52 false) →
    exec .lh5Hdr s = .next
      { s with
        bitpos := s.bitpos + 52
        blockCount := 0#16
        phase := .streaming
        tabT := { s.tabT with len := List.replicate 19 0#5, constV := true, constSym := 0 }
        tabC := { s.tabC with len := List.replicate 510 0#5, constV := true, constSym := 0 }
        tabP := { s.tabP with len := List.replicate 14 0#5, constV := true, constSym := 0 } }

/-! ## Streaming and the copy engine (43_lh5_streaming.md) -/

/-- R234, R236: a literal writes OUT[OUT_COUNT], adds 1 to OUT_COUNT, and changes nothing else. -/
def Obligations.LitAppendsByte : Prop :=
  ∀ (s : State) (c : Nat), c < 256 → s.outCount < s.expandedSize →
    ∃ t : State, exec (.lh5Lit c) s = .next t ∧
      t = { s with outMem := t.outMem, outCount := s.outCount + 1#32 } ∧
      ∀ a : Nat, t.memRead .out a = if a = s.outCount.toNat then some (BitVec.ofNat 8 c) else s.memRead .out a

/-- R239: LH5.DIST decodes a P symbol p and then reads p - 1 bits: 0 for p = 0, else 2^(p-1) plus them.
(unitResult: log 8.) -/
def Obligations.DistReadsExtraBits : Prop :=
  ∀ (s : State) (p w : Nat), s.codeAt .p p w →
    exec .lh5Dist s = .next { s with unitResult := s.distanceAt p w, bitpos := s.bitpos + w + (p - 1) }

/-- R241: an offset above OUT_COUNT raises OffsetBeforeStart, after the whole distance is read, and no byte of the
match is written. (BITPOS and the registers R350 leaves unspecified after that fault: log 10.) -/
def Obligations.MatchBeforeStartFaults : Prop :=
  ∀ (s : State) (c p w : Nat), 256 ≤ c → c ≤ 509 → s.codeAt .p p w → s.outCount.toNat < s.distanceAt p w + 1 →
    exec (.lh5Match c) s = .next
      { s with
        bitpos := s.bitpos + w + (p - 1)
        faultCode := 2#3
        faultSub := 0#4
        faultInfo := BitVec.ofNat 32 (s.distanceAt p w + 1)
        state := .fault }

/-- R240, R242 with R238: a match copies c - 253 bytes, or up to EXPANDED_SIZE, each from offset bytes back in the output
as it then is; the bytes below OUT_COUNT stay; nothing but BITPOS, OUT and OUT_COUNT changes. -/
def Obligations.MatchCopiesBackReference : Prop :=
  ∀ (s : State) (c p w : Nat), 256 ≤ c → c ≤ 509 → s.codeAt .p p w → s.distanceAt p w + 1 ≤ s.outCount.toNat →
    s.outCount ≤ s.expandedSize → (∀ a, a < s.outCount.toNat → s.memRead .out a ≠ none) →
      ∃ r : State, exec (.lh5Match c) s = .next r ∧
        r = { s with bitpos := s.bitpos + w + (p - 1), outMem := r.outMem, outCount := r.outCount } ∧
        r.outCount.toNat = min (s.outCount.toNat + (c - 256 + 3)) s.expandedSize.toNat ∧
        (∀ a, a < s.outCount.toNat → r.memRead .out a = s.memRead .out a) ∧
        (∀ a, s.outCount.toNat ≤ a → a < r.outCount.toNat →
          r.memRead .out a = r.memRead .out (a - (s.distanceAt p w + 1))) ∧
        (∀ a, r.outCount.toNat ≤ a → r.memRead .out a = s.memRead .out a)

/-- R232: LH5.SYM decrements BLOCK_COUNT mod 2^16 (a counter of 0 wraps to 65535), decodes a C symbol, runs its literal or
match, and returns to BlockHeader at zero; if the match raises, the last line does not run. -/
def Obligations.SymRunsLiteralOrMatch : Prop :=
  ∀ (s : State) (c w : Nat), s.state ≠ .fault → s.codeAt .c c w →
    (c < 256 → s.outCount < s.expandedSize →
      ∃ t : State, exec .lh5Sym s = .next t ∧
        t = { s with
          bitpos := s.bitpos + w
          outMem := t.outMem
          outCount := s.outCount + 1#32
          blockCount := s.blockCount - 1#16
          phase := if s.blockCount = 1#16 then .blockHeader else s.phase } ∧
        ∀ a : Nat, t.memRead .out a =
          if a = s.outCount.toNat then some (BitVec.ofNat 8 c) else s.memRead .out a) ∧
    (256 ≤ c → c ≤ 509 → ∀ q,
      exec (.lh5Match c) { s with bitpos := s.bitpos + w, blockCount := s.blockCount - 1#16 } = .next q →
        (q.state ≠ .fault →
          exec .lh5Sym s = .next { q with phase := if q.blockCount = 0#16 then .blockHeader else q.phase }) ∧
        (q.state = .fault → exec .lh5Sym s = .next q))

/-! ## LZSS (44_lzss.md) -/

/-- R274: LZSS.CTRL fetches a byte into CTRL and sets CTRL_LEFT to 8. -/
def Obligations.CtrlLoadsControlByte : Prop :=
  ∀ (s : State) (b : Byte), s.inPos < s.inLen → s.memRead .inn s.inPos.toNat = some b →
    exec .lzssCtrl s = .next { s with ctrl := b, ctrlLeft := 8#4, inPos := s.inPos + 1#32 }

/-- R277, R280: LZSS.LIT takes one decision bit and one byte, and writes the byte to OUT and to RING. -/
def Obligations.LzssLitAppendsByte : Prop :=
  ∀ (s : State) (b : Byte), s.memoriesCanonical → s.ctrlLeft ≠ 0#4 → s.inPos < s.inLen →
    s.memRead .inn s.inPos.toNat = some b → s.outCount < s.expandedSize →
      ∃ t : State, exec .lzssLit s = .next t ∧
        t = { s with
          ctrl := s.ctrl <<< 1
          ctrlLeft := s.ctrlLeft - 1#4
          inPos := s.inPos + 1#32
          outMem := t.outMem
          outCount := s.outCount + 1#32
          ringMem := t.ringMem
          ringW := s.ringW + 1#12 } ∧
        (∀ a : Nat, t.memRead .out a = if a = s.outCount.toNat then some b else s.memRead .out a) ∧
        ∀ a : Nat, t.memRead .ring a = if a = s.ringW.toNat then some b else s.memRead .ring a

/-- R283, R285, R286: LZSS.MATCH takes one decision bit and two bytes, and copies LF + 3 bytes, or up to EXPANDED_SIZE,
from ring cell F on, to OUT and to RING. With d the back distance (1..4096), byte k is the ring cell F + k as it was
for k < d, and the byte copied d before it for k >= d; of the ring only the cells so read need a value. -/
def Obligations.LzssMatchCopiesFromRing : Prop :=
  ∀ (s : State) (b0 b1 : Byte), s.memoriesCanonical → s.ctrlLeft ≠ 0#4 → s.inPos.toNat + 2 ≤ s.inLen.toNat →
    s.memRead .inn s.inPos.toNat = some b0 → s.memRead .inn (s.inPos.toNat + 1) = some b1 →
    s.outCount ≤ s.expandedSize →
      ∀ f len d : Nat, f = b0.toNat + 256 * (b1.toNat / 16) → len = b1.toNat % 16 + 3 →
        1 ≤ d → d ≤ 4096 → (f + d) % 4096 = s.ringW.toNat →
        (∀ k, k < len → k < d → s.outCount.toNat + k < s.expandedSize.toNat →
          s.memRead .ring ((f + k) % 4096) ≠ none) →
      ∃ t : State, exec .lzssMatch s = .next t ∧
        t = { s with
          ctrl := s.ctrl <<< 1
          ctrlLeft := s.ctrlLeft - 1#4
          inPos := s.inPos + 2#32
          outMem := t.outMem
          outCount := t.outCount
          ringMem := t.ringMem
          ringW := t.ringW } ∧
        t.outCount.toNat = min (s.outCount.toNat + len) s.expandedSize.toNat ∧
        t.ringW.toNat = (s.ringW.toNat + (t.outCount.toNat - s.outCount.toNat)) % 4096 ∧
        (∀ k, s.outCount.toNat + k < t.outCount.toNat →
          t.memRead .out (s.outCount.toNat + k) =
            (if k < d then s.memRead .ring ((f + k) % 4096) else t.memRead .out (s.outCount.toNat + k - d)) ∧
          t.memRead .ring ((s.ringW.toNat + k) % 4096) = t.memRead .out (s.outCount.toNat + k)) ∧
        (∀ a, a < s.outCount.toNat ∨ t.outCount.toNat ≤ a → t.memRead .out a = s.memRead .out a) ∧
        ∀ a, (∀ k, s.outCount.toNat + k < t.outCount.toNat → a ≠ (s.ringW.toNat + k) % 4096) →
          t.memRead .ring a = s.memRead .ring a

/-- R290: input exhausted at a token boundary: TruncatedInput under policy fault, DONE under policy end. R284: a pair cut
short is TruncatedInput(PAIR_SECOND) whatever the policy, and nothing of the match is emitted. (The registers R350 leaves
unspecified after a fault: log 10.) -/
def Obligations.LzssInputExhausted : Prop :=
  ∀ s : State,
    (s.ctrlLeft ≠ 0#4 → s.inPos.toNat + 1 = s.inLen.toNat →
      exec .lzssMatch s = .next
        { s with
          ctrl := s.ctrl <<< 1
          ctrlLeft := s.ctrlLeft - 1#4
          inPos := s.inLen
          faultCode := 3#3
          faultSub := 4#4
          faultInfo := s.inLen
          state := .fault }) ∧
    (s.inPos = s.inLen →
    (s.params.eofPolicy = .fault → exec .lzssCtrl s = .next
      { s with faultCode := 3#3, faultSub := 1#4, faultInfo := s.inPos, state := .fault }) ∧
    (s.params.eofPolicy = .finish → exec .lzssCtrl s = .next { s with state := .done }) ∧
    (s.ctrlLeft ≠ 0#4 → s.params.eofPolicy = .fault →
      exec .lzssLit s = .next
        { s with
          ctrl := s.ctrl <<< 1
          ctrlLeft := s.ctrlLeft - 1#4
          faultCode := 3#3
          faultSub := 2#4
          faultInfo := s.inPos
          state := .fault } ∧
      exec .lzssMatch s = .next
        { s with
          ctrl := s.ctrl <<< 1
          ctrlLeft := s.ctrlLeft - 1#4
          faultCode := 3#3
          faultSub := 3#4
          faultInfo := s.inPos
          state := .fault }) ∧
    (s.ctrlLeft ≠ 0#4 → s.params.eofPolicy = .finish →
      exec .lzssLit s = .next
        { s with ctrl := s.ctrl <<< 1, ctrlLeft := s.ctrlLeft - 1#4, state := .done } ∧
      exec .lzssMatch s = .next
        { s with ctrl := s.ctrl <<< 1, ctrlLeft := s.ctrlLeft - 1#4, state := .done }))

/-- R287: with LZSS_RING_FILL = none, a match whose source byte k (k = 0 the first) is a cell never written raises
RingUnwritten with the cell's index, and the k bytes already emitted stay emitted; with LZSS_RING_FILL = b every cell
reads, so no match raises it. (The registers R350 leaves unspecified after that fault: log 10.) -/
def Obligations.RingUnwrittenFaultsOnlyWithoutFill : Prop :=
  ∀ (s : State) (b0 b1 : Byte), s.ctrlLeft ≠ 0#4 → s.inPos.toNat + 2 ≤ s.inLen.toNat →
    s.memRead .inn s.inPos.toNat = some b0 → s.memRead .inn (s.inPos.toNat + 1) = some b1 →
      (∀ f d k : Nat, f = b0.toNat + 256 * (b1.toNat / 16) → k < b1.toNat % 16 + 3 →
        1 ≤ d → d ≤ 4096 → (f + d) % 4096 = s.ringW.toNat → k < d →
        s.outCount.toNat + k < s.expandedSize.toNat →
        (∀ j, j < k → s.memRead .ring ((f + j) % 4096) ≠ none) → s.memRead .ring ((f + k) % 4096) = none →
          ∃ t : State, exec .lzssMatch s = .next t ∧
            t = { s with
              ctrl := s.ctrl <<< 1
              ctrlLeft := s.ctrlLeft - 1#4
              inPos := s.inPos + 2#32
              outMem := t.outMem
              outCount := t.outCount
              ringMem := t.ringMem
              ringW := t.ringW
              faultCode := 6#3
              faultSub := 0#4
              faultInfo := BitVec.ofNat 32 ((f + k) % 4096)
              state := .fault } ∧
            t.outCount.toNat = s.outCount.toNat + k ∧
            ∀ a : Nat, t.memRead .out a =
              if s.outCount.toNat ≤ a ∧ a < s.outCount.toNat + k then
                s.memRead .ring ((f + (a - s.outCount.toNat)) % 4096)
              else s.memRead .out a) ∧
      (s.params.ringFill ≠ none → ∀ t, exec .lzssMatch s = .next t → t.state = s.state)

/-! ## Host commands and accesses (45_host_commands.md) -/

/-- R314, R313: outside RUN, CMD.START initialises every per-job register and gives every ring cell its job-start content,
and then runs, or raises UnsupportedCompression on a reserved CODEC; in RUN it is ignored. (R39 leaves OUT unspecified
there, and so does this statement; that LEN_X, TABLE_X, LEFT_X, RIGHT_X and AVAIL_X, unspecified there too, are unchanged
is the model's choice, log 2, and so are the registers R350 leaves unspecified after the fault, log 10.) -/
def Obligations.StartInitialisesJob : Prop :=
  ∀ s : State,
    (s.state ≠ .run → s.codec = 3#3 ∨ s.codec = 5#3 →
      ∃ t : State, exec .cmdStart s = .next t ∧
        t = { s with
          state := .run, faultCode := 0#3, faultSub := 0#4, faultInfo := 0#32
          outCount := 0#32, bitpos := 0, inPos := 0#32, phase := .blockHeader, blockCount := 0#16, ctrl := 0#8
          ctrlLeft := 0#4, ringW := 0xFEE#12
          tabT := { s.tabT with constV := false, constSym := 0 }
          tabC := { s.tabC with constV := false, constSym := 0 }
          tabP := { s.tabP with constV := false, constSym := 0 }
          ringMem := t.ringMem, outMem := t.outMem } ∧
        ∀ a : Nat, t.memRead .ring a = s.params.ringFill) ∧
    (s.state ≠ .run → s.codec ≠ 3#3 → s.codec ≠ 5#3 →
      ∃ t : State, exec .cmdStart s = .next t ∧
        t = { s with
          state := .fault, faultCode := 4#3, faultSub := 0#4, faultInfo := BitVec.ofNat 32 s.codec.toNat
          outCount := 0#32, bitpos := 0, inPos := 0#32, phase := .blockHeader, blockCount := 0#16, ctrl := 0#8
          ctrlLeft := 0#4, ringW := 0xFEE#12
          tabT := { s.tabT with constV := false, constSym := 0 }
          tabC := { s.tabC with constV := false, constSym := 0 }
          tabP := { s.tabP with constV := false, constSym := 0 }
          ringMem := t.ringMem, outMem := t.outMem } ∧
        ∀ a : Nat, t.memRead .ring a = s.params.ringFill) ∧
    (s.state = .run → exec .cmdStart s = .next s)

/-- R316 with R39: CMD.RESET leaves every register at its reset value, in any state, and IN the host's; the state of the
model after power-on has the same values. -/
def Obligations.ResetRestoresResetValues : Prop :=
  State.reset.resetValues ∧
    ∀ s : State, ∃ t : State, exec .cmdReset s = .next t ∧ t.resetValues ∧ t.inMem = s.inMem ∧ t.params = s.params

/-- R317: CMD.ABORT in RUN sets IDLE and clears the fault registers, OUT being unspecified then; in the other states it
changes nothing. (That the registers the rule does not name are unchanged in RUN is the model's choice, log 15.) -/
def Obligations.AbortReturnsToIdle : Prop :=
  ∀ s : State,
    (s.state = .run → ∃ t : State, exec .cmdAbort s = .next t ∧
      t = { s with state := .idle, faultCode := 0#3, faultSub := 0#4, faultInfo := 0#32, outMem := t.outMem }) ∧
    (s.state ≠ .run → exec .cmdAbort s = .next s)

/-- R318, R392: a register write takes effect outside RUN and is ignored in RUN; a write to IN in RUN, and to
OUT in any state, is refused (log 14). -/
def Obligations.HostWritesOnlyOutsideRun : Prop :=
  ∀ (s : State) (rest : List HostAction) (a : HostAction), s.host = a :: rest →
    (∀ v, a = .writeCodec v →
      step s = .next (if s.state = .run then { s with host := rest } else { s with host := rest, codec := v })) ∧
    (∀ v, a = .writeInLen v →
      step s = .next (if s.state = .run then { s with host := rest } else { s with host := rest, inLen := v })) ∧
    (∀ v, a = .writeExpandedSize v →
      step s = .next
        (if s.state = .run then { s with host := rest } else { s with host := rest, expandedSize := v })) ∧
    (∀ b v, a = .writeIn b v → s.state = .run → step s = .refused .hostWroteInDuringRun) ∧
    (∀ b v, a = .writeIn b v → s.state ≠ .run → s.memoriesCanonical →
      ∃ t : State, step s = .next t ∧ t = { s with host := rest, inMem := t.inMem } ∧
        ∀ c : Nat, t.memRead .inn c = if c = b.toNat then some v else s.memRead .inn c) ∧
    (∀ b v, a = .writeOut b v → step s = .refused .hostWroteOut)

/-- R318: the host reads CODEC, IN_LEN, EXPANDED_SIZE and STATE in every state, OUT_COUNT and the fault registers outside
RUN, BITPOS and IN_POS in IDLE and DONE, IN below IN_LEN, and OUT below OUT_COUNT in DONE, whatever EXPANDED_SIZE has
become; any other read returns some value of the register's or byte's width (log 9, 11); RING, the tables, LEN_X and CTRL
are not accessible. -/
def Obligations.HostReadsWhatIsReadable : Prop :=
  ∀ (s : State) (rest : List HostAction) (o : HostObject), s.host = .read o :: rest →
    (∀ v,
      (o = .codec ∧ v = s.codec.toNat) ∨ (o = .inLen ∧ v = s.inLen.toNat) ∨
        (o = .expandedSize ∧ v = s.expandedSize.toNat) ∨
        (o = .state ∧ ((s.state = .idle ∧ v = 0) ∨ (s.state = .run ∧ v = 1) ∨ (s.state = .done ∧ v = 2) ∨
          (s.state = .fault ∧ v = 3))) ∨
        (s.state ≠ .run ∧ ((o = .outCount ∧ v = s.outCount.toNat) ∨ (o = .faultCode ∧ v = s.faultCode.toNat) ∨
          (o = .faultSub ∧ v = s.faultSub.toNat) ∨ (o = .faultInfo ∧ v = s.faultInfo.toNat))) ∨
        ((s.state = .idle ∨ s.state = .done) ∧
          ((o = .bitpos ∧ v = s.bitpos) ∨ (o = .inPos ∧ v = s.inPos.toNat))) ∨
        (∃ (a : Word) (b : Byte), o = .inByte a ∧ a < s.inLen ∧ s.memRead .inn a.toNat = some b ∧ v = b.toNat) ∨
        (∃ (a : Word) (b : Byte), o = .outByte a ∧ s.state = .done ∧ a < s.outCount ∧
          s.memRead .out a.toNat = some b ∧ v = b.toNat) →
        step s = .next { s with host := rest, hostData := v }) ∧
    (∀ w,
      (s.state = .run ∧ ((o = .outCount ∧ w = 32) ∨ (o = .faultCode ∧ w = 3) ∨ (o = .faultSub ∧ w = 4) ∨
        (o = .faultInfo ∧ w = 32))) ∨
        ((s.state = .run ∨ s.state = .fault) ∧ o = .inPos ∧ w = 32) ∨
        (∃ a : Word, o = .inByte a ∧ s.inLen ≤ a ∧ w = 8) ∨
        (∃ a : Word, o = .outByte a ∧ (s.state ≠ .done ∨ s.outCount ≤ a) ∧ w = 8) →
        ∃ v, v < 2 ^ w ∧ step s = .next { s with host := rest, hostData := v, freeIx := s.freeIx + 1 }) ∧
    (s.state = .run ∨ s.state = .fault → o = .bitpos →
      ∃ v, step s = .next { s with host := rest, hostData := v, freeIx := s.freeIx + 1 }) ∧
    (o = .internals → step s = .refused .notAccessible)

/-! ## The step -/

/-- R231: step selection of the LH5 decoder when the host does nothing, and R315: the finish step sets DONE and changes
nothing else. -/
def Obligations.StepSelectsLh5Operation : Prop :=
  ∀ s : State, s.host = [] → s.state = .run → s.codec = 5#3 →
    (s.outCount = s.expandedSize → step s = .next { s with state := .done }) ∧
    (s.outCount ≠ s.expandedSize → s.phase = .blockHeader → step s = exec .lh5Hdr s) ∧
    (s.outCount ≠ s.expandedSize → s.phase = .streaming → step s = exec .lh5Sym s)

/-- R271: step selection of the LZSS decoder when the host does nothing, and R315. -/
def Obligations.StepSelectsLzssOperation : Prop :=
  ∀ s : State, s.host = [] → s.state = .run → s.codec = 3#3 →
    (s.outCount = s.expandedSize → step s = .next { s with state := .done }) ∧
    (s.outCount ≠ s.expandedSize → s.ctrlLeft = 0#4 → step s = exec .lzssCtrl s) ∧
    (s.outCount ≠ s.expandedSize → s.ctrlLeft ≠ 0#4 → s.ctrl.getLsbD 7 = true → step s = exec .lzssLit s) ∧
    (s.outCount ≠ s.expandedSize → s.ctrlLeft ≠ 0#4 → s.ctrl.getLsbD 7 = false → step s = exec .lzssMatch s)

/-- The model's host (its own choice, log 6): a pending command runs and is gone; a pending `wait` is gone and the block
takes its step; a quiescent block takes no step (R311). -/
def Obligations.StepRunsCommandOrRests : Prop :=
  ∀ s : State,
    (∀ rest, s.host = .command .reset :: rest → step s = exec .cmdReset { s with host := rest }) ∧
    (∀ rest, s.host = .command .start :: rest → step s = exec .cmdStart { s with host := rest }) ∧
    (∀ rest, s.host = .command .abort :: rest → step s = exec .cmdAbort { s with host := rest }) ∧
    (∀ rest, s.host = .wait :: rest → step s = blockStep { s with host := rest }) ∧
    (s.host = [] → step s = blockStep s ∧ (s.state ≠ .run → step s = .next s))

/-- R311, with R250 and R291: every transition of STATE and the event it needs. Outside RUN only CMD.START and CMD.RESET
change STATE; RUN ends in IDLE by CMD.RESET or CMD.ABORT, in DONE when OUT_COUNT = EXPANDED_SIZE or when LZSS input is
exhausted under policy end, and in FAULT by a raise of the operation under way. Each of these events has that effect:
the commands, OUT_COUNT = EXPANDED_SIZE, LZSS exhaustion under policy end, and every raise of a running job (State.raises:
a part of the header, an offset before the start, LZSS exhaustion under policy fault, a pair cut short, a ring cell never
written). (The host's list: log 6.) -/
def Obligations.StateTransitionsAreTheListed : Prop :=
  ∀ s t : State, step s = .next t →
    (s.state ≠ .run →
      t.state = s.state ∨
      (s.host.head? = some (.command .reset) ∧ t.state = .idle) ∨
      (s.host.head? = some (.command .start) ∧ (s.codec = 3#3 ∨ s.codec = 5#3) ∧ t.state = .run) ∨
      (s.host.head? = some (.command .start) ∧ s.codec ≠ 3#3 ∧ s.codec ≠ 5#3 ∧ t.state = .fault)) ∧
    (s.state = .run → t.state = .idle →
      s.host.head? = some (.command .reset) ∨ s.host.head? = some (.command .abort)) ∧
    (s.state = .run → t.state = .done →
      s.blockTurn ∧
        (s.outCount = s.expandedSize ∨
          (s.codec = 3#3 ∧ s.params.eofPolicy = .finish ∧ s.inPos = s.inLen))) ∧
    (s.state = .run → t.state = .fault →
      s.blockTurn ∧ s.outCount ≠ s.expandedSize ∧
        ((s.codec = 5#3 ∧ s.phase = .blockHeader ∧ t.faultCode = 1#3) ∨
          (s.codec = 5#3 ∧ s.phase = .streaming ∧ t.faultCode = 2#3) ∨
          (s.codec = 3#3 ∧ t.faultCode = 3#3 ∧ t.inPos = t.inLen) ∨
          (s.codec = 3#3 ∧ t.faultCode = 6#3 ∧ s.params.ringFill = none))) ∧
    (s.host.head? = some (.command .reset) → t.state = .idle) ∧
    (s.state = .run → s.host.head? = some (.command .abort) → t.state = .idle) ∧
    (s.state ≠ .run → s.host.head? = some (.command .start) →
      (s.codec = 3#3 ∨ s.codec = 5#3 → t.state = .run) ∧ (s.codec ≠ 3#3 → s.codec ≠ 5#3 → t.state = .fault)) ∧
    (s.state = .run → s.host.head? = some (.command .start) → t.state = .run) ∧
    (s.state = .run → s.blockTurn → s.outCount = s.expandedSize → t.state = .done) ∧
    (s.state = .run → s.blockTurn → s.outCount ≠ s.expandedSize → s.codec = 3#3 → s.inPos = s.inLen →
      s.params.eofPolicy = .finish → t.state = .done) ∧
    (s.state = .run → s.blockTurn → s.outCount ≠ s.expandedSize → s.blockStart.raises → t.state = .fault)

/-- R315, R320: when a job ends in DONE, no fault is reported, exactly the OUT bytes below OUT_COUNT are there (log 5), and
OUT_COUNT = EXPANDED_SIZE or, under LZSS policy end, OUT_COUNT < EXPANDED_SIZE with the input exhausted. -/
def Obligations.DoneMeansOutputComplete : Prop :=
  ∀ s t : State, s.runLegal → s.faultRegistersLegal → s.outWritten → s.state = .run → step s = .next t →
    t.state = .done →
      t.faultCode = 0#3 ∧ (∀ a : Nat, (t.memRead .out a).isSome = true ↔ a < t.outCount.toNat) ∧
        (t.outCount = t.expandedSize ∨
          (t.outCount < t.expandedSize ∧ t.codec = 3#3 ∧ t.params.eofPolicy = .finish ∧ t.inPos = t.inLen))

/-! ## Encodings (30_encoding.md) -/

/-- Bit patterns written out from R95, R97, R99, R110, R111, R112 and the operations and fields they stand for. -/
def Obligations.EncodedWordsDecode : Prop :=
  decodeField .lengthCode [true, true, true, false] = some (.lengthCode 7, []) ∧
  decodeField .lengthCode [true, true, false, true] = some (.lengthCode 6, [true]) ∧
  decodeField .lengthCode (List.replicate 13 true) = none ∧
  decodeField .pair (bytesToBits [0xEE#8, 0xF7#8]) = some (.pair 0xFEE#12 7#4, []) ∧
  decodeField .blockCount (bytesToBits [0x00#8, 0x04#8]) = some (.blockCount 4#16, []) ∧
  decode ⟨.cItem, 0⟩ = .ok .clZero1 ∧ decode ⟨.cItem, 1⟩ = .ok .clZrun4 ∧ decode ⟨.cItem, 2⟩ = .ok .clZrun9 ∧
  decode ⟨.cItem, 18⟩ = .ok (.clLen 18) ∧ decode ⟨.cItem, 19⟩ = .error .noSuchTSymbol ∧
  decode ⟨.cSymbol, 255⟩ = .ok (.lh5Lit 255) ∧ decode ⟨.cSymbol, 256⟩ = .ok (.lh5Match 256) ∧
  decode ⟨.cSymbol, 510⟩ = .error .noSuchCSymbol ∧
  decode ⟨.token, 1⟩ = .ok .lzssLit ∧ decode ⟨.token, 0⟩ = .ok .lzssMatch

/-- R93 to R99, R111: every field of the two formats, at every value, decodes back from its bits, whatever follows. -/
def Obligations.FieldDecodeEncodeAgree : Prop :=
  ∀ (f : StreamField) (rest : List Bool), f.wellFormed = true →
    decodeField f.kind (encodeField f ++ rest) = some (f, rest)

/-! ## Frames -/

/-- What the composite header operations leave unchanged: everything but BITPOS, their table units, and (LH5.HDR) the
block counter and PHASE; STATE and the fault registers change only by a fault. The model's free-value counter moves only
where LH5.CLEN decodes with a table that gives no symbol (log 23). (42_lh5_block_header.md; after a fault, what R350
leaves unspecified: log 10.) -/
def Obligations.HeaderOperationsFrame : Prop :=
  ∀ (s t : State) (i : Instr), i = .lh5Hdr ∨ i = .lh5Tlen ∨ i = .lh5Clen ∨ i = .lh5Plen → exec i s = .next t →
    t = { s with
      bitpos := t.bitpos, blockCount := t.blockCount, phase := t.phase, tabT := t.tabT, tabC := t.tabC
      tabP := t.tabP, freeIx := t.freeIx, state := t.state, faultCode := t.faultCode, faultSub := t.faultSub, faultInfo := t.faultInfo } ∧
    s.bitpos ≤ t.bitpos ∧
    (i ≠ .lh5Clen ∨ s.tabT.decodes .t → t.freeIx = s.freeIx) ∧
    (i ≠ .lh5Hdr → t.blockCount = s.blockCount ∧ t.phase = s.phase) ∧
    (i = .lh5Tlen → t.tabC = s.tabC ∧ t.tabP = s.tabP) ∧
    (i = .lh5Clen → t.tabT = s.tabT ∧ t.tabP = s.tabP) ∧
    (i = .lh5Plen → t.tabT = s.tabT ∧ t.tabC = s.tabC) ∧
    (t.state ≠ .fault → t.state = s.state ∧ t.faultCode = s.faultCode ∧ t.faultSub = s.faultSub ∧
      t.faultInfo = s.faultInfo) ∧
    (t.state ≠ s.state → t.state = .fault ∧ t.faultCode = 1#3)

/-- What the LH5 symbol operations leave unchanged: everything but BITPOS, BLOCK_COUNT and PHASE (LH5.SYM only), OUT from
OUT_COUNT on, and OUT_COUNT; STATE and the fault registers change only by a fault. The model's free-value counter moves
only where table C or P gives no symbol (log 23). (43_lh5_streaming.md; after a fault, what R350 leaves unspecified:
log 10.) -/
def Obligations.StreamOperationsFrame : Prop :=
  ∀ (s t : State) (i : Instr), i = .lh5Sym ∨ (∃ c, i = .lh5Lit c) ∨ (∃ c, i = .lh5Match c) → exec i s = .next t →
    t = { s with
      bitpos := t.bitpos, blockCount := t.blockCount, phase := t.phase, outMem := t.outMem, outCount := t.outCount
      freeIx := t.freeIx, state := t.state, faultCode := t.faultCode, faultSub := t.faultSub, faultInfo := t.faultInfo } ∧
    (s.tabC.decodes .c → s.tabP.decodes .p → t.freeIx = s.freeIx) ∧
    s.bitpos ≤ t.bitpos ∧ s.outCount.toNat ≤ t.outCount.toNat ∧
    (i ≠ .lh5Sym → t.blockCount = s.blockCount ∧ t.phase = s.phase) ∧
    (∀ a : Nat, a < s.outCount.toNat ∨ t.outCount.toNat ≤ a → t.memRead .out a = s.memRead .out a) ∧
    (t.state ≠ s.state → t.state = .fault ∧ t.faultCode = 2#3) ∧
    (t.state ≠ .fault → t.faultCode = s.faultCode ∧ t.faultSub = s.faultSub ∧ t.faultInfo = s.faultInfo)

/-- What the LZSS operations leave unchanged: everything but IN_POS, CTRL, CTRL_LEFT, OUT from OUT_COUNT on, OUT_COUNT,
the ring cells the emitted bytes go to, and RING_W; STATE and the fault registers change only by a fault or, under
policy end, to DONE. (44_lzss.md; after a fault, what R350 leaves unspecified: log 10.) -/
def Obligations.LzssOperationsFrame : Prop :=
  ∀ (s t : State) (i : Instr), s.memoriesCanonical → i = .lzssCtrl ∨ i = .lzssLit ∨ i = .lzssMatch →
    exec i s = .next t →
    t = { s with
      inPos := t.inPos, ctrl := t.ctrl, ctrlLeft := t.ctrlLeft, outMem := t.outMem, outCount := t.outCount
      ringMem := t.ringMem, ringW := t.ringW, state := t.state, faultCode := t.faultCode, faultSub := t.faultSub
      faultInfo := t.faultInfo } ∧
    s.inPos.toNat ≤ t.inPos.toNat ∧ s.outCount.toNat ≤ t.outCount.toNat ∧
    (i = .lzssCtrl → t.outMem = s.outMem ∧ t.outCount = s.outCount ∧ t.ringMem = s.ringMem ∧ t.ringW = s.ringW) ∧
    (∀ a : Nat, a < s.outCount.toNat ∨ t.outCount.toNat ≤ a → t.memRead .out a = s.memRead .out a) ∧
    (∀ a : Nat, (∀ k, s.outCount.toNat + k < t.outCount.toNat → a ≠ (s.ringW.toNat + k) % 4096) →
      t.memRead .ring a = s.memRead .ring a) ∧
    (t.state ≠ s.state → (t.state = .fault ∧ (t.faultCode = 3#3 ∨ t.faultCode = 6#3)) ∨
      (t.state = .done ∧ s.params.eofPolicy = .finish ∧ t.inPos = t.inLen)) ∧
    (t.state ≠ .fault → t.faultCode = s.faultCode ∧ t.faultSub = s.faultSub ∧ t.faultInfo = s.faultInfo)

/-! ## Invariants of every step -/

/-- Every step keeps the canonical form of IN, OUT and RING. -/
def Obligations.StepKeepsMemoriesCanonical : Prop :=
  ∀ s t : State, s.memoriesCanonical → step s = .next t → t.memoriesCanonical

/-- R176, R351: no step writes outside the table memories: they keep their sizes, and LEN_X stays within 0..16. -/
def Obligations.StepKeepsTablesShaped : Prop :=
  ∀ s t : State, s.tablesShaped → step s = .next t → t.tablesShaped

/-- R22, R26, R35: in RUN, OUT_COUNT <= EXPANDED_SIZE, IN_POS <= IN_LEN, CTRL_LEFT <= 8, CODEC is 3 or 5, and
PHASE = BLOCK_HEADER implies BLOCK_COUNT = 0. -/
def Obligations.StepKeepsRunLegal : Prop :=
  ∀ s t : State, s.runLegal → step s = .next t → t.runLegal

/-- R341: the fault registers are 0 in IDLE, RUN and DONE, and hold a listed code in FAULT. -/
def Obligations.StepKeepsFaultRegistersLegal : Prop :=
  ∀ s t : State, s.faultRegistersLegal → step s = .next t → t.faultRegistersLegal

/-- R61, R240: in RUN and DONE the OUT cells that hold a value are exactly those below OUT_COUNT. -/
def Obligations.StepKeepsOutWritten : Prop :=
  ∀ s t : State, s.outWritten → step s = .next t → t.outWritten

/-- R62, R351: no step writes a ring cell outside 0..4095. -/
def Obligations.StepKeepsRingInBounds : Prop :=
  ∀ s t : State, s.ringInBounds → step s = .next t → t.ringInBounds

/-- R280, R281: in an LZSS job RING holds the last min(OUT_COUNT, 4096) output bytes, and RING_W is
(OUT_COUNT + 0xFEE) mod 4096. -/
def Obligations.StepKeepsRingMirrorsOutput : Prop :=
  ∀ s t : State, s.memoriesCanonical → s.ringMirrors → step s = .next t → t.ringMirrors

/-- R32, R162, R395: in Streaming, the C and P tables decode every 16-bit window. -/
def Obligations.StepKeepsTablesDecode : Prop :=
  ∀ s t : State, s.tablesDecode → step s = .next t → t.tablesDecode

/-- The state after reset satisfies every invariant. -/
def Obligations.ResetSatisfiesInvariants : Prop :=
  State.reset.memoriesCanonical ∧ State.reset.tablesShaped ∧ State.reset.runLegal ∧
    State.reset.faultRegistersLegal ∧ State.reset.outWritten ∧ State.reset.ringInBounds ∧
    State.reset.ringMirrors ∧ State.reset.tablesDecode

/-- R340: "recoverable errors, never crashes": in a state that meets the invariants, every turn that is not a host access
answers a next state; the model's own stops cannot be reached. -/
def Obligations.BlockNeverStops : Prop :=
  ∀ s : State, s.runLegal → s.outWritten → s.noHostAccess → ∃ t, step s = .next t

/-! ## Whole-machine rules -/

/-- R251, R291: a running job makes progress at every step of the block, so it ends: the measure falls, and it is at most
2 * EXPANDED_SIZE + 1. -/
def Obligations.EveryBlockStepMakesProgress : Prop :=
  ∀ s t : State, s.host = [] → s.state = .run → step s = .next t →
    (t.state = .run → t.remaining < s.remaining) ∧ s.remaining ≤ 2 * s.expandedSize.toNat + 1

/-- R24, R61, R250: the cursors only move forward, and a byte once emitted is never changed, in a step of a running job. -/
def Obligations.CursorAndOutputOnlyAdvance : Prop :=
  ∀ s t : State, s.host = [] → s.state = .run → step s = .next t →
    s.bitpos ≤ t.bitpos ∧ s.inPos.toNat ≤ t.inPos.toNat ∧ s.outCount.toNat ≤ t.outCount.toNat ∧
      ∀ a : Nat, a < s.outCount.toNat → t.memRead .out a = s.memRead .out a

/-- R75, R318, R9: nothing changes IN while STATE = RUN, and only CMD.RESET changes CODEC, IN_LEN or EXPANDED_SIZE then;
no step at all changes the parameters. -/
def Obligations.RunKeepsJobInputs : Prop :=
  ∀ s t : State, step s = .next t →
    t.params = s.params ∧
    (s.state = .run → t.inMem = s.inMem ∧
      (s.host.head? ≠ some (.command .reset) →
        t.codec = s.codec ∧ t.inLen = s.inLen ∧ t.expandedSize = s.expandedSize))

/-- R380, R320: a job depends on nothing that ran before it: CMD.START makes two states with the same parameters, CODEC,
IN_LEN, EXPANDED_SIZE and IN the same job, and every step of the block keeps them the same job. (The
invariant that the tables in use decode, StepKeepsTablesDecode, rules out the free symbols of log 23.) -/
def Obligations.JobDependsOnItsInputsOnly : Prop :=
  (∀ s t s' t' : State, s.state ≠ .run → t.state ≠ .run → s.params = t.params → s.codec = t.codec →
    s.inLen = t.inLen → s.expandedSize = t.expandedSize → s.inMem = t.inMem →
    exec .cmdStart s = .next s' → exec .cmdStart t = .next t' → s'.sameJob t') ∧
  (∀ s t s' : State, s.tablesDecode → s.sameJob t → s.host = [] → t.host = [] → step s = .next s' →
    ∃ t', step t = .next t' ∧ s'.sameJob t')
end

