-- ==== Sys2Proof/Laws/State.lean ====
section
/-! SUPPORT. The field lemmas of every named update of State, so that no later proof unfolds a record update. -/

namespace Sys2Proof.Machine

@[simp] theorem State.consume_params (s : State) (n : Nat) : (s.consume n).params = s.params := rfl
@[simp] theorem State.consume_codec (s : State) (n : Nat) : (s.consume n).codec = s.codec := rfl
@[simp] theorem State.consume_inLen (s : State) (n : Nat) : (s.consume n).inLen = s.inLen := rfl
@[simp] theorem State.consume_expandedSize (s : State) (n : Nat) : (s.consume n).expandedSize = s.expandedSize := rfl
@[simp] theorem State.consume_state (s : State) (n : Nat) : (s.consume n).state = s.state := rfl
@[simp] theorem State.consume_outCount (s : State) (n : Nat) : (s.consume n).outCount = s.outCount := rfl
@[simp] theorem State.consume_faultCode (s : State) (n : Nat) : (s.consume n).faultCode = s.faultCode := rfl
@[simp] theorem State.consume_faultSub (s : State) (n : Nat) : (s.consume n).faultSub = s.faultSub := rfl
@[simp] theorem State.consume_faultInfo (s : State) (n : Nat) : (s.consume n).faultInfo = s.faultInfo := rfl
@[simp] theorem State.consume_bitpos (s : State) (n : Nat) : (s.consume n).bitpos = s.bitpos + n := rfl
@[simp] theorem State.consume_inPos (s : State) (n : Nat) : (s.consume n).inPos = s.inPos := rfl
@[simp] theorem State.consume_phase (s : State) (n : Nat) : (s.consume n).phase = s.phase := rfl
@[simp] theorem State.consume_blockCount (s : State) (n : Nat) : (s.consume n).blockCount = s.blockCount := rfl
@[simp] theorem State.consume_tabT (s : State) (n : Nat) : (s.consume n).tabT = s.tabT := rfl
@[simp] theorem State.consume_tabC (s : State) (n : Nat) : (s.consume n).tabC = s.tabC := rfl
@[simp] theorem State.consume_tabP (s : State) (n : Nat) : (s.consume n).tabP = s.tabP := rfl
@[simp] theorem State.consume_ctrl (s : State) (n : Nat) : (s.consume n).ctrl = s.ctrl := rfl
@[simp] theorem State.consume_ctrlLeft (s : State) (n : Nat) : (s.consume n).ctrlLeft = s.ctrlLeft := rfl
@[simp] theorem State.consume_ringW (s : State) (n : Nat) : (s.consume n).ringW = s.ringW := rfl
@[simp] theorem State.consume_inMem (s : State) (n : Nat) : (s.consume n).inMem = s.inMem := rfl
@[simp] theorem State.consume_outMem (s : State) (n : Nat) : (s.consume n).outMem = s.outMem := rfl
@[simp] theorem State.consume_ringMem (s : State) (n : Nat) : (s.consume n).ringMem = s.ringMem := rfl
@[simp] theorem State.consume_host (s : State) (n : Nat) : (s.consume n).host = s.host := rfl
@[simp] theorem State.consume_hostData (s : State) (n : Nat) : (s.consume n).hostData = s.hostData := rfl
@[simp] theorem State.consume_freeIx (s : State) (n : Nat) : (s.consume n).freeIx = s.freeIx := rfl
@[simp] theorem State.consume_unitResult (s : State) (n : Nat) : (s.consume n).unitResult = s.unitResult := rfl
@[simp] theorem State.consume_lenIndex (s : State) (n : Nat) : (s.consume n).lenIndex = s.lenIndex := rfl

@[simp] theorem State.faulted_params (s : State) (c : Cause) : (s.faulted c).params = s.params := rfl
@[simp] theorem State.faulted_codec (s : State) (c : Cause) : (s.faulted c).codec = s.codec := rfl
@[simp] theorem State.faulted_inLen (s : State) (c : Cause) : (s.faulted c).inLen = s.inLen := rfl
@[simp] theorem State.faulted_expandedSize (s : State) (c : Cause) : (s.faulted c).expandedSize = s.expandedSize := rfl
@[simp] theorem State.faulted_state (s : State) (c : Cause) : (s.faulted c).state = .fault := rfl
@[simp] theorem State.faulted_outCount (s : State) (c : Cause) : (s.faulted c).outCount = s.outCount := rfl
@[simp] theorem State.faulted_faultCode (s : State) (c : Cause) : (s.faulted c).faultCode = c.code := rfl
@[simp] theorem State.faulted_faultSub (s : State) (c : Cause) : (s.faulted c).faultSub = c.sub := rfl
@[simp] theorem State.faulted_faultInfo (s : State) (c : Cause) : (s.faulted c).faultInfo = c.info := rfl
@[simp] theorem State.faulted_bitpos (s : State) (c : Cause) : (s.faulted c).bitpos = s.bitpos := rfl
@[simp] theorem State.faulted_inPos (s : State) (c : Cause) : (s.faulted c).inPos = s.inPos := rfl
@[simp] theorem State.faulted_phase (s : State) (c : Cause) : (s.faulted c).phase = s.phase := rfl
@[simp] theorem State.faulted_blockCount (s : State) (c : Cause) : (s.faulted c).blockCount = s.blockCount := rfl
@[simp] theorem State.faulted_tabT (s : State) (c : Cause) : (s.faulted c).tabT = s.tabT := rfl
@[simp] theorem State.faulted_tabC (s : State) (c : Cause) : (s.faulted c).tabC = s.tabC := rfl
@[simp] theorem State.faulted_tabP (s : State) (c : Cause) : (s.faulted c).tabP = s.tabP := rfl
@[simp] theorem State.faulted_ctrl (s : State) (c : Cause) : (s.faulted c).ctrl = s.ctrl := rfl
@[simp] theorem State.faulted_ctrlLeft (s : State) (c : Cause) : (s.faulted c).ctrlLeft = s.ctrlLeft := rfl
@[simp] theorem State.faulted_ringW (s : State) (c : Cause) : (s.faulted c).ringW = s.ringW := rfl
@[simp] theorem State.faulted_inMem (s : State) (c : Cause) : (s.faulted c).inMem = s.inMem := rfl
@[simp] theorem State.faulted_outMem (s : State) (c : Cause) : (s.faulted c).outMem = s.outMem := rfl
@[simp] theorem State.faulted_ringMem (s : State) (c : Cause) : (s.faulted c).ringMem = s.ringMem := rfl
@[simp] theorem State.faulted_host (s : State) (c : Cause) : (s.faulted c).host = s.host := rfl
@[simp] theorem State.faulted_hostData (s : State) (c : Cause) : (s.faulted c).hostData = s.hostData := rfl
@[simp] theorem State.faulted_freeIx (s : State) (c : Cause) : (s.faulted c).freeIx = s.freeIx := rfl
@[simp] theorem State.faulted_unitResult (s : State) (c : Cause) : (s.faulted c).unitResult = s.unitResult := rfl
@[simp] theorem State.faulted_lenIndex (s : State) (c : Cause) : (s.faulted c).lenIndex = s.lenIndex := rfl

@[simp] theorem State.countSymbol_params (s : State) : (s.countSymbol).params = s.params := rfl
@[simp] theorem State.countSymbol_codec (s : State) : (s.countSymbol).codec = s.codec := rfl
@[simp] theorem State.countSymbol_inLen (s : State) : (s.countSymbol).inLen = s.inLen := rfl
@[simp] theorem State.countSymbol_expandedSize (s : State) : (s.countSymbol).expandedSize = s.expandedSize := rfl
@[simp] theorem State.countSymbol_state (s : State) : (s.countSymbol).state = s.state := rfl
@[simp] theorem State.countSymbol_outCount (s : State) : (s.countSymbol).outCount = s.outCount := rfl
@[simp] theorem State.countSymbol_faultCode (s : State) : (s.countSymbol).faultCode = s.faultCode := rfl
@[simp] theorem State.countSymbol_faultSub (s : State) : (s.countSymbol).faultSub = s.faultSub := rfl
@[simp] theorem State.countSymbol_faultInfo (s : State) : (s.countSymbol).faultInfo = s.faultInfo := rfl
@[simp] theorem State.countSymbol_bitpos (s : State) : (s.countSymbol).bitpos = s.bitpos := rfl
@[simp] theorem State.countSymbol_inPos (s : State) : (s.countSymbol).inPos = s.inPos := rfl
@[simp] theorem State.countSymbol_phase (s : State) : (s.countSymbol).phase = s.phase := rfl
@[simp] theorem State.countSymbol_blockCount (s : State) : (s.countSymbol).blockCount = s.blockCount - 1#16 := rfl
@[simp] theorem State.countSymbol_tabT (s : State) : (s.countSymbol).tabT = s.tabT := rfl
@[simp] theorem State.countSymbol_tabC (s : State) : (s.countSymbol).tabC = s.tabC := rfl
@[simp] theorem State.countSymbol_tabP (s : State) : (s.countSymbol).tabP = s.tabP := rfl
@[simp] theorem State.countSymbol_ctrl (s : State) : (s.countSymbol).ctrl = s.ctrl := rfl
@[simp] theorem State.countSymbol_ctrlLeft (s : State) : (s.countSymbol).ctrlLeft = s.ctrlLeft := rfl
@[simp] theorem State.countSymbol_ringW (s : State) : (s.countSymbol).ringW = s.ringW := rfl
@[simp] theorem State.countSymbol_inMem (s : State) : (s.countSymbol).inMem = s.inMem := rfl
@[simp] theorem State.countSymbol_outMem (s : State) : (s.countSymbol).outMem = s.outMem := rfl
@[simp] theorem State.countSymbol_ringMem (s : State) : (s.countSymbol).ringMem = s.ringMem := rfl
@[simp] theorem State.countSymbol_host (s : State) : (s.countSymbol).host = s.host := rfl
@[simp] theorem State.countSymbol_hostData (s : State) : (s.countSymbol).hostData = s.hostData := rfl
@[simp] theorem State.countSymbol_freeIx (s : State) : (s.countSymbol).freeIx = s.freeIx := rfl
@[simp] theorem State.countSymbol_unitResult (s : State) : (s.countSymbol).unitResult = s.unitResult := rfl
@[simp] theorem State.countSymbol_lenIndex (s : State) : (s.countSymbol).lenIndex = s.lenIndex := rfl

@[simp] theorem State.finish_params (s : State) : (s.finish).params = s.params := rfl
@[simp] theorem State.finish_codec (s : State) : (s.finish).codec = s.codec := rfl
@[simp] theorem State.finish_inLen (s : State) : (s.finish).inLen = s.inLen := rfl
@[simp] theorem State.finish_expandedSize (s : State) : (s.finish).expandedSize = s.expandedSize := rfl
@[simp] theorem State.finish_state (s : State) : (s.finish).state = .done := rfl
@[simp] theorem State.finish_outCount (s : State) : (s.finish).outCount = s.outCount := rfl
@[simp] theorem State.finish_faultCode (s : State) : (s.finish).faultCode = s.faultCode := rfl
@[simp] theorem State.finish_faultSub (s : State) : (s.finish).faultSub = s.faultSub := rfl
@[simp] theorem State.finish_faultInfo (s : State) : (s.finish).faultInfo = s.faultInfo := rfl
@[simp] theorem State.finish_bitpos (s : State) : (s.finish).bitpos = s.bitpos := rfl
@[simp] theorem State.finish_inPos (s : State) : (s.finish).inPos = s.inPos := rfl
@[simp] theorem State.finish_phase (s : State) : (s.finish).phase = s.phase := rfl
@[simp] theorem State.finish_blockCount (s : State) : (s.finish).blockCount = s.blockCount := rfl
@[simp] theorem State.finish_tabT (s : State) : (s.finish).tabT = s.tabT := rfl
@[simp] theorem State.finish_tabC (s : State) : (s.finish).tabC = s.tabC := rfl
@[simp] theorem State.finish_tabP (s : State) : (s.finish).tabP = s.tabP := rfl
@[simp] theorem State.finish_ctrl (s : State) : (s.finish).ctrl = s.ctrl := rfl
@[simp] theorem State.finish_ctrlLeft (s : State) : (s.finish).ctrlLeft = s.ctrlLeft := rfl
@[simp] theorem State.finish_ringW (s : State) : (s.finish).ringW = s.ringW := rfl
@[simp] theorem State.finish_inMem (s : State) : (s.finish).inMem = s.inMem := rfl
@[simp] theorem State.finish_outMem (s : State) : (s.finish).outMem = s.outMem := rfl
@[simp] theorem State.finish_ringMem (s : State) : (s.finish).ringMem = s.ringMem := rfl
@[simp] theorem State.finish_host (s : State) : (s.finish).host = s.host := rfl
@[simp] theorem State.finish_hostData (s : State) : (s.finish).hostData = s.hostData := rfl
@[simp] theorem State.finish_freeIx (s : State) : (s.finish).freeIx = s.freeIx := rfl
@[simp] theorem State.finish_unitResult (s : State) : (s.finish).unitResult = s.unitResult := rfl
@[simp] theorem State.finish_lenIndex (s : State) : (s.finish).lenIndex = s.lenIndex := rfl

@[simp] theorem State.returned_params (s : State) (v : Nat) : (s.returned v).params = s.params := rfl
@[simp] theorem State.returned_codec (s : State) (v : Nat) : (s.returned v).codec = s.codec := rfl
@[simp] theorem State.returned_inLen (s : State) (v : Nat) : (s.returned v).inLen = s.inLen := rfl
@[simp] theorem State.returned_expandedSize (s : State) (v : Nat) : (s.returned v).expandedSize = s.expandedSize := rfl
@[simp] theorem State.returned_state (s : State) (v : Nat) : (s.returned v).state = s.state := rfl
@[simp] theorem State.returned_outCount (s : State) (v : Nat) : (s.returned v).outCount = s.outCount := rfl
@[simp] theorem State.returned_faultCode (s : State) (v : Nat) : (s.returned v).faultCode = s.faultCode := rfl
@[simp] theorem State.returned_faultSub (s : State) (v : Nat) : (s.returned v).faultSub = s.faultSub := rfl
@[simp] theorem State.returned_faultInfo (s : State) (v : Nat) : (s.returned v).faultInfo = s.faultInfo := rfl
@[simp] theorem State.returned_bitpos (s : State) (v : Nat) : (s.returned v).bitpos = s.bitpos := rfl
@[simp] theorem State.returned_inPos (s : State) (v : Nat) : (s.returned v).inPos = s.inPos := rfl
@[simp] theorem State.returned_phase (s : State) (v : Nat) : (s.returned v).phase = s.phase := rfl
@[simp] theorem State.returned_blockCount (s : State) (v : Nat) : (s.returned v).blockCount = s.blockCount := rfl
@[simp] theorem State.returned_tabT (s : State) (v : Nat) : (s.returned v).tabT = s.tabT := rfl
@[simp] theorem State.returned_tabC (s : State) (v : Nat) : (s.returned v).tabC = s.tabC := rfl
@[simp] theorem State.returned_tabP (s : State) (v : Nat) : (s.returned v).tabP = s.tabP := rfl
@[simp] theorem State.returned_ctrl (s : State) (v : Nat) : (s.returned v).ctrl = s.ctrl := rfl
@[simp] theorem State.returned_ctrlLeft (s : State) (v : Nat) : (s.returned v).ctrlLeft = s.ctrlLeft := rfl
@[simp] theorem State.returned_ringW (s : State) (v : Nat) : (s.returned v).ringW = s.ringW := rfl
@[simp] theorem State.returned_inMem (s : State) (v : Nat) : (s.returned v).inMem = s.inMem := rfl
@[simp] theorem State.returned_outMem (s : State) (v : Nat) : (s.returned v).outMem = s.outMem := rfl
@[simp] theorem State.returned_ringMem (s : State) (v : Nat) : (s.returned v).ringMem = s.ringMem := rfl
@[simp] theorem State.returned_host (s : State) (v : Nat) : (s.returned v).host = s.host := rfl
@[simp] theorem State.returned_hostData (s : State) (v : Nat) : (s.returned v).hostData = v := rfl
@[simp] theorem State.returned_freeIx (s : State) (v : Nat) : (s.returned v).freeIx = s.freeIx := rfl
@[simp] theorem State.returned_unitResult (s : State) (v : Nat) : (s.returned v).unitResult = s.unitResult := rfl
@[simp] theorem State.returned_lenIndex (s : State) (v : Nat) : (s.returned v).lenIndex = s.lenIndex := rfl

@[simp] theorem State.jobStart_params (s : State) : (s.jobStart).params = s.params := rfl
@[simp] theorem State.jobStart_codec (s : State) : (s.jobStart).codec = s.codec := rfl
@[simp] theorem State.jobStart_inLen (s : State) : (s.jobStart).inLen = s.inLen := rfl
@[simp] theorem State.jobStart_expandedSize (s : State) : (s.jobStart).expandedSize = s.expandedSize := rfl
@[simp] theorem State.jobStart_state (s : State) : (s.jobStart).state = s.state := rfl
@[simp] theorem State.jobStart_outCount (s : State) : (s.jobStart).outCount = 0#32 := rfl
@[simp] theorem State.jobStart_faultCode (s : State) : (s.jobStart).faultCode = 0#3 := rfl
@[simp] theorem State.jobStart_faultSub (s : State) : (s.jobStart).faultSub = 0#4 := rfl
@[simp] theorem State.jobStart_faultInfo (s : State) : (s.jobStart).faultInfo = 0#32 := rfl
@[simp] theorem State.jobStart_bitpos (s : State) : (s.jobStart).bitpos = 0 := rfl
@[simp] theorem State.jobStart_inPos (s : State) : (s.jobStart).inPos = 0#32 := rfl
@[simp] theorem State.jobStart_phase (s : State) : (s.jobStart).phase = .blockHeader := rfl
@[simp] theorem State.jobStart_blockCount (s : State) : (s.jobStart).blockCount = 0#16 := rfl
@[simp] theorem State.jobStart_tabT (s : State) : (s.jobStart).tabT = s.tabT.constCleared := rfl
@[simp] theorem State.jobStart_tabC (s : State) : (s.jobStart).tabC = s.tabC.constCleared := rfl
@[simp] theorem State.jobStart_tabP (s : State) : (s.jobStart).tabP = s.tabP.constCleared := rfl
@[simp] theorem State.jobStart_ctrl (s : State) : (s.jobStart).ctrl = 0#8 := rfl
@[simp] theorem State.jobStart_ctrlLeft (s : State) : (s.jobStart).ctrlLeft = 0#4 := rfl
@[simp] theorem State.jobStart_ringW (s : State) : (s.jobStart).ringW = Config.ringBias := rfl
@[simp] theorem State.jobStart_inMem (s : State) : (s.jobStart).inMem = s.inMem := rfl
@[simp] theorem State.jobStart_outMem (s : State) : (s.jobStart).outMem = [] := rfl
@[simp] theorem State.jobStart_ringMem (s : State) : (s.jobStart).ringMem = [] := rfl
@[simp] theorem State.jobStart_host (s : State) : (s.jobStart).host = s.host := rfl
@[simp] theorem State.jobStart_hostData (s : State) : (s.jobStart).hostData = s.hostData := rfl
@[simp] theorem State.jobStart_freeIx (s : State) : (s.jobStart).freeIx = s.freeIx := rfl
@[simp] theorem State.jobStart_unitResult (s : State) : (s.jobStart).unitResult = s.unitResult := rfl
@[simp] theorem State.jobStart_lenIndex (s : State) : (s.jobStart).lenIndex = s.lenIndex := rfl

@[simp] theorem State.setUnit_params (s : State) (x : Alphabet) (u : TableUnit) : (s.setUnit x u).params = s.params := by
  cases x <;> rfl
@[simp] theorem State.setUnit_codec (s : State) (x : Alphabet) (u : TableUnit) : (s.setUnit x u).codec = s.codec := by
  cases x <;> rfl
@[simp] theorem State.setUnit_inLen (s : State) (x : Alphabet) (u : TableUnit) : (s.setUnit x u).inLen = s.inLen := by
  cases x <;> rfl
@[simp] theorem State.setUnit_expandedSize (s : State) (x : Alphabet) (u : TableUnit) : (s.setUnit x u).expandedSize = s.expandedSize := by
  cases x <;> rfl
@[simp] theorem State.setUnit_state (s : State) (x : Alphabet) (u : TableUnit) : (s.setUnit x u).state = s.state := by
  cases x <;> rfl
@[simp] theorem State.setUnit_outCount (s : State) (x : Alphabet) (u : TableUnit) : (s.setUnit x u).outCount = s.outCount := by
  cases x <;> rfl
@[simp] theorem State.setUnit_faultCode (s : State) (x : Alphabet) (u : TableUnit) : (s.setUnit x u).faultCode = s.faultCode := by
  cases x <;> rfl
@[simp] theorem State.setUnit_faultSub (s : State) (x : Alphabet) (u : TableUnit) : (s.setUnit x u).faultSub = s.faultSub := by
  cases x <;> rfl
@[simp] theorem State.setUnit_faultInfo (s : State) (x : Alphabet) (u : TableUnit) : (s.setUnit x u).faultInfo = s.faultInfo := by
  cases x <;> rfl
@[simp] theorem State.setUnit_bitpos (s : State) (x : Alphabet) (u : TableUnit) : (s.setUnit x u).bitpos = s.bitpos := by
  cases x <;> rfl
@[simp] theorem State.setUnit_inPos (s : State) (x : Alphabet) (u : TableUnit) : (s.setUnit x u).inPos = s.inPos := by
  cases x <;> rfl
@[simp] theorem State.setUnit_phase (s : State) (x : Alphabet) (u : TableUnit) : (s.setUnit x u).phase = s.phase := by
  cases x <;> rfl
@[simp] theorem State.setUnit_blockCount (s : State) (x : Alphabet) (u : TableUnit) : (s.setUnit x u).blockCount = s.blockCount := by
  cases x <;> rfl
@[simp] theorem State.setUnit_ctrl (s : State) (x : Alphabet) (u : TableUnit) : (s.setUnit x u).ctrl = s.ctrl := by
  cases x <;> rfl
@[simp] theorem State.setUnit_ctrlLeft (s : State) (x : Alphabet) (u : TableUnit) : (s.setUnit x u).ctrlLeft = s.ctrlLeft := by
  cases x <;> rfl
@[simp] theorem State.setUnit_ringW (s : State) (x : Alphabet) (u : TableUnit) : (s.setUnit x u).ringW = s.ringW := by
  cases x <;> rfl
@[simp] theorem State.setUnit_inMem (s : State) (x : Alphabet) (u : TableUnit) : (s.setUnit x u).inMem = s.inMem := by
  cases x <;> rfl
@[simp] theorem State.setUnit_outMem (s : State) (x : Alphabet) (u : TableUnit) : (s.setUnit x u).outMem = s.outMem := by
  cases x <;> rfl
@[simp] theorem State.setUnit_ringMem (s : State) (x : Alphabet) (u : TableUnit) : (s.setUnit x u).ringMem = s.ringMem := by
  cases x <;> rfl
@[simp] theorem State.setUnit_host (s : State) (x : Alphabet) (u : TableUnit) : (s.setUnit x u).host = s.host := by
  cases x <;> rfl
@[simp] theorem State.setUnit_hostData (s : State) (x : Alphabet) (u : TableUnit) : (s.setUnit x u).hostData = s.hostData := by
  cases x <;> rfl
@[simp] theorem State.setUnit_freeIx (s : State) (x : Alphabet) (u : TableUnit) : (s.setUnit x u).freeIx = s.freeIx := by
  cases x <;> rfl
@[simp] theorem State.setUnit_unitResult (s : State) (x : Alphabet) (u : TableUnit) : (s.setUnit x u).unitResult = s.unitResult := by
  cases x <;> rfl
@[simp] theorem State.setUnit_lenIndex (s : State) (x : Alphabet) (u : TableUnit) : (s.setUnit x u).lenIndex = s.lenIndex := by
  cases x <;> rfl

@[simp] theorem State.memWrite_params (s : State) (p : Space) (a : Nat) (v : Byte) : (s.memWrite p a v).params = s.params := by
  cases p <;> rfl
@[simp] theorem State.memWrite_codec (s : State) (p : Space) (a : Nat) (v : Byte) : (s.memWrite p a v).codec = s.codec := by
  cases p <;> rfl
@[simp] theorem State.memWrite_inLen (s : State) (p : Space) (a : Nat) (v : Byte) : (s.memWrite p a v).inLen = s.inLen := by
  cases p <;> rfl
@[simp] theorem State.memWrite_expandedSize (s : State) (p : Space) (a : Nat) (v : Byte) : (s.memWrite p a v).expandedSize = s.expandedSize := by
  cases p <;> rfl
@[simp] theorem State.memWrite_state (s : State) (p : Space) (a : Nat) (v : Byte) : (s.memWrite p a v).state = s.state := by
  cases p <;> rfl
@[simp] theorem State.memWrite_outCount (s : State) (p : Space) (a : Nat) (v : Byte) : (s.memWrite p a v).outCount = s.outCount := by
  cases p <;> rfl
@[simp] theorem State.memWrite_faultCode (s : State) (p : Space) (a : Nat) (v : Byte) : (s.memWrite p a v).faultCode = s.faultCode := by
  cases p <;> rfl
@[simp] theorem State.memWrite_faultSub (s : State) (p : Space) (a : Nat) (v : Byte) : (s.memWrite p a v).faultSub = s.faultSub := by
  cases p <;> rfl
@[simp] theorem State.memWrite_faultInfo (s : State) (p : Space) (a : Nat) (v : Byte) : (s.memWrite p a v).faultInfo = s.faultInfo := by
  cases p <;> rfl
@[simp] theorem State.memWrite_bitpos (s : State) (p : Space) (a : Nat) (v : Byte) : (s.memWrite p a v).bitpos = s.bitpos := by
  cases p <;> rfl
@[simp] theorem State.memWrite_inPos (s : State) (p : Space) (a : Nat) (v : Byte) : (s.memWrite p a v).inPos = s.inPos := by
  cases p <;> rfl
@[simp] theorem State.memWrite_phase (s : State) (p : Space) (a : Nat) (v : Byte) : (s.memWrite p a v).phase = s.phase := by
  cases p <;> rfl
@[simp] theorem State.memWrite_blockCount (s : State) (p : Space) (a : Nat) (v : Byte) : (s.memWrite p a v).blockCount = s.blockCount := by
  cases p <;> rfl
@[simp] theorem State.memWrite_tabT (s : State) (p : Space) (a : Nat) (v : Byte) : (s.memWrite p a v).tabT = s.tabT := by
  cases p <;> rfl
@[simp] theorem State.memWrite_tabC (s : State) (p : Space) (a : Nat) (v : Byte) : (s.memWrite p a v).tabC = s.tabC := by
  cases p <;> rfl
@[simp] theorem State.memWrite_tabP (s : State) (p : Space) (a : Nat) (v : Byte) : (s.memWrite p a v).tabP = s.tabP := by
  cases p <;> rfl
@[simp] theorem State.memWrite_ctrl (s : State) (p : Space) (a : Nat) (v : Byte) : (s.memWrite p a v).ctrl = s.ctrl := by
  cases p <;> rfl
@[simp] theorem State.memWrite_ctrlLeft (s : State) (p : Space) (a : Nat) (v : Byte) : (s.memWrite p a v).ctrlLeft = s.ctrlLeft := by
  cases p <;> rfl
@[simp] theorem State.memWrite_ringW (s : State) (p : Space) (a : Nat) (v : Byte) : (s.memWrite p a v).ringW = s.ringW := by
  cases p <;> rfl
@[simp] theorem State.memWrite_host (s : State) (p : Space) (a : Nat) (v : Byte) : (s.memWrite p a v).host = s.host := by
  cases p <;> rfl
@[simp] theorem State.memWrite_hostData (s : State) (p : Space) (a : Nat) (v : Byte) : (s.memWrite p a v).hostData = s.hostData := by
  cases p <;> rfl
@[simp] theorem State.memWrite_freeIx (s : State) (p : Space) (a : Nat) (v : Byte) : (s.memWrite p a v).freeIx = s.freeIx := by
  cases p <;> rfl
@[simp] theorem State.memWrite_unitResult (s : State) (p : Space) (a : Nat) (v : Byte) : (s.memWrite p a v).unitResult = s.unitResult := by
  cases p <;> rfl
@[simp] theorem State.memWrite_lenIndex (s : State) (p : Space) (a : Nat) (v : Byte) : (s.memWrite p a v).lenIndex = s.lenIndex := by
  cases p <;> rfl

@[simp] theorem State.endBlock_params (s : State) : (s.endBlock).params = s.params := by
  unfold State.endBlock; split <;> rfl
@[simp] theorem State.endBlock_codec (s : State) : (s.endBlock).codec = s.codec := by
  unfold State.endBlock; split <;> rfl
@[simp] theorem State.endBlock_inLen (s : State) : (s.endBlock).inLen = s.inLen := by
  unfold State.endBlock; split <;> rfl
@[simp] theorem State.endBlock_expandedSize (s : State) : (s.endBlock).expandedSize = s.expandedSize := by
  unfold State.endBlock; split <;> rfl
@[simp] theorem State.endBlock_state (s : State) : (s.endBlock).state = s.state := by
  unfold State.endBlock; split <;> rfl
@[simp] theorem State.endBlock_outCount (s : State) : (s.endBlock).outCount = s.outCount := by
  unfold State.endBlock; split <;> rfl
@[simp] theorem State.endBlock_faultCode (s : State) : (s.endBlock).faultCode = s.faultCode := by
  unfold State.endBlock; split <;> rfl
@[simp] theorem State.endBlock_faultSub (s : State) : (s.endBlock).faultSub = s.faultSub := by
  unfold State.endBlock; split <;> rfl
@[simp] theorem State.endBlock_faultInfo (s : State) : (s.endBlock).faultInfo = s.faultInfo := by
  unfold State.endBlock; split <;> rfl
@[simp] theorem State.endBlock_bitpos (s : State) : (s.endBlock).bitpos = s.bitpos := by
  unfold State.endBlock; split <;> rfl
@[simp] theorem State.endBlock_inPos (s : State) : (s.endBlock).inPos = s.inPos := by
  unfold State.endBlock; split <;> rfl
@[simp] theorem State.endBlock_blockCount (s : State) : (s.endBlock).blockCount = s.blockCount := by
  unfold State.endBlock; split <;> rfl
@[simp] theorem State.endBlock_tabT (s : State) : (s.endBlock).tabT = s.tabT := by
  unfold State.endBlock; split <;> rfl
@[simp] theorem State.endBlock_tabC (s : State) : (s.endBlock).tabC = s.tabC := by
  unfold State.endBlock; split <;> rfl
@[simp] theorem State.endBlock_tabP (s : State) : (s.endBlock).tabP = s.tabP := by
  unfold State.endBlock; split <;> rfl
@[simp] theorem State.endBlock_ctrl (s : State) : (s.endBlock).ctrl = s.ctrl := by
  unfold State.endBlock; split <;> rfl
@[simp] theorem State.endBlock_ctrlLeft (s : State) : (s.endBlock).ctrlLeft = s.ctrlLeft := by
  unfold State.endBlock; split <;> rfl
@[simp] theorem State.endBlock_ringW (s : State) : (s.endBlock).ringW = s.ringW := by
  unfold State.endBlock; split <;> rfl
@[simp] theorem State.endBlock_inMem (s : State) : (s.endBlock).inMem = s.inMem := by
  unfold State.endBlock; split <;> rfl
@[simp] theorem State.endBlock_outMem (s : State) : (s.endBlock).outMem = s.outMem := by
  unfold State.endBlock; split <;> rfl
@[simp] theorem State.endBlock_ringMem (s : State) : (s.endBlock).ringMem = s.ringMem := by
  unfold State.endBlock; split <;> rfl
@[simp] theorem State.endBlock_host (s : State) : (s.endBlock).host = s.host := by
  unfold State.endBlock; split <;> rfl
@[simp] theorem State.endBlock_hostData (s : State) : (s.endBlock).hostData = s.hostData := by
  unfold State.endBlock; split <;> rfl
@[simp] theorem State.endBlock_freeIx (s : State) : (s.endBlock).freeIx = s.freeIx := by
  unfold State.endBlock; split <;> rfl
@[simp] theorem State.endBlock_unitResult (s : State) : (s.endBlock).unitResult = s.unitResult := by
  unfold State.endBlock; split <;> rfl
@[simp] theorem State.endBlock_lenIndex (s : State) : (s.endBlock).lenIndex = s.lenIndex := by
  unfold State.endBlock; split <;> rfl

@[simp] theorem State.setLen_params (s : State) (x : Alphabet) (i l : Nat): (s.setLen x i l).params = s.params := by
  simp [State.setLen]
@[simp] theorem State.setLen_codec (s : State) (x : Alphabet) (i l : Nat): (s.setLen x i l).codec = s.codec := by
  simp [State.setLen]
@[simp] theorem State.setLen_inLen (s : State) (x : Alphabet) (i l : Nat): (s.setLen x i l).inLen = s.inLen := by
  simp [State.setLen]
@[simp] theorem State.setLen_expandedSize (s : State) (x : Alphabet) (i l : Nat): (s.setLen x i l).expandedSize = s.expandedSize := by
  simp [State.setLen]
@[simp] theorem State.setLen_state (s : State) (x : Alphabet) (i l : Nat): (s.setLen x i l).state = s.state := by
  simp [State.setLen]
@[simp] theorem State.setLen_outCount (s : State) (x : Alphabet) (i l : Nat): (s.setLen x i l).outCount = s.outCount := by
  simp [State.setLen]
@[simp] theorem State.setLen_faultCode (s : State) (x : Alphabet) (i l : Nat): (s.setLen x i l).faultCode = s.faultCode := by
  simp [State.setLen]
@[simp] theorem State.setLen_faultSub (s : State) (x : Alphabet) (i l : Nat): (s.setLen x i l).faultSub = s.faultSub := by
  simp [State.setLen]
@[simp] theorem State.setLen_faultInfo (s : State) (x : Alphabet) (i l : Nat): (s.setLen x i l).faultInfo = s.faultInfo := by
  simp [State.setLen]
@[simp] theorem State.setLen_bitpos (s : State) (x : Alphabet) (i l : Nat): (s.setLen x i l).bitpos = s.bitpos := by
  simp [State.setLen]
@[simp] theorem State.setLen_inPos (s : State) (x : Alphabet) (i l : Nat): (s.setLen x i l).inPos = s.inPos := by
  simp [State.setLen]
@[simp] theorem State.setLen_phase (s : State) (x : Alphabet) (i l : Nat): (s.setLen x i l).phase = s.phase := by
  simp [State.setLen]
@[simp] theorem State.setLen_blockCount (s : State) (x : Alphabet) (i l : Nat): (s.setLen x i l).blockCount = s.blockCount := by
  simp [State.setLen]
@[simp] theorem State.setLen_ctrl (s : State) (x : Alphabet) (i l : Nat): (s.setLen x i l).ctrl = s.ctrl := by
  simp [State.setLen]
@[simp] theorem State.setLen_ctrlLeft (s : State) (x : Alphabet) (i l : Nat): (s.setLen x i l).ctrlLeft = s.ctrlLeft := by
  simp [State.setLen]
@[simp] theorem State.setLen_ringW (s : State) (x : Alphabet) (i l : Nat): (s.setLen x i l).ringW = s.ringW := by
  simp [State.setLen]
@[simp] theorem State.setLen_inMem (s : State) (x : Alphabet) (i l : Nat): (s.setLen x i l).inMem = s.inMem := by
  simp [State.setLen]
@[simp] theorem State.setLen_outMem (s : State) (x : Alphabet) (i l : Nat): (s.setLen x i l).outMem = s.outMem := by
  simp [State.setLen]
@[simp] theorem State.setLen_ringMem (s : State) (x : Alphabet) (i l : Nat): (s.setLen x i l).ringMem = s.ringMem := by
  simp [State.setLen]
@[simp] theorem State.setLen_host (s : State) (x : Alphabet) (i l : Nat): (s.setLen x i l).host = s.host := by
  simp [State.setLen]
@[simp] theorem State.setLen_hostData (s : State) (x : Alphabet) (i l : Nat): (s.setLen x i l).hostData = s.hostData := by
  simp [State.setLen]
@[simp] theorem State.setLen_freeIx (s : State) (x : Alphabet) (i l : Nat): (s.setLen x i l).freeIx = s.freeIx := by
  simp [State.setLen]
@[simp] theorem State.setLen_unitResult (s : State) (x : Alphabet) (i l : Nat): (s.setLen x i l).unitResult = s.unitResult := by
  simp [State.setLen]
@[simp] theorem State.setLen_lenIndex (s : State) (x : Alphabet) (i l : Nat): (s.setLen x i l).lenIndex = s.lenIndex := by
  simp [State.setLen]

@[simp] theorem State.clearLens_params (s : State) (x : Alphabet): (s.clearLens x).params = s.params := by
  simp [State.clearLens]
@[simp] theorem State.clearLens_codec (s : State) (x : Alphabet): (s.clearLens x).codec = s.codec := by
  simp [State.clearLens]
@[simp] theorem State.clearLens_inLen (s : State) (x : Alphabet): (s.clearLens x).inLen = s.inLen := by
  simp [State.clearLens]
@[simp] theorem State.clearLens_expandedSize (s : State) (x : Alphabet): (s.clearLens x).expandedSize = s.expandedSize := by
  simp [State.clearLens]
@[simp] theorem State.clearLens_state (s : State) (x : Alphabet): (s.clearLens x).state = s.state := by
  simp [State.clearLens]
@[simp] theorem State.clearLens_outCount (s : State) (x : Alphabet): (s.clearLens x).outCount = s.outCount := by
  simp [State.clearLens]
@[simp] theorem State.clearLens_faultCode (s : State) (x : Alphabet): (s.clearLens x).faultCode = s.faultCode := by
  simp [State.clearLens]
@[simp] theorem State.clearLens_faultSub (s : State) (x : Alphabet): (s.clearLens x).faultSub = s.faultSub := by
  simp [State.clearLens]
@[simp] theorem State.clearLens_faultInfo (s : State) (x : Alphabet): (s.clearLens x).faultInfo = s.faultInfo := by
  simp [State.clearLens]
@[simp] theorem State.clearLens_bitpos (s : State) (x : Alphabet): (s.clearLens x).bitpos = s.bitpos := by
  simp [State.clearLens]
@[simp] theorem State.clearLens_inPos (s : State) (x : Alphabet): (s.clearLens x).inPos = s.inPos := by
  simp [State.clearLens]
@[simp] theorem State.clearLens_phase (s : State) (x : Alphabet): (s.clearLens x).phase = s.phase := by
  simp [State.clearLens]
@[simp] theorem State.clearLens_blockCount (s : State) (x : Alphabet): (s.clearLens x).blockCount = s.blockCount := by
  simp [State.clearLens]
@[simp] theorem State.clearLens_ctrl (s : State) (x : Alphabet): (s.clearLens x).ctrl = s.ctrl := by
  simp [State.clearLens]
@[simp] theorem State.clearLens_ctrlLeft (s : State) (x : Alphabet): (s.clearLens x).ctrlLeft = s.ctrlLeft := by
  simp [State.clearLens]
@[simp] theorem State.clearLens_ringW (s : State) (x : Alphabet): (s.clearLens x).ringW = s.ringW := by
  simp [State.clearLens]
@[simp] theorem State.clearLens_inMem (s : State) (x : Alphabet): (s.clearLens x).inMem = s.inMem := by
  simp [State.clearLens]
@[simp] theorem State.clearLens_outMem (s : State) (x : Alphabet): (s.clearLens x).outMem = s.outMem := by
  simp [State.clearLens]
@[simp] theorem State.clearLens_ringMem (s : State) (x : Alphabet): (s.clearLens x).ringMem = s.ringMem := by
  simp [State.clearLens]
@[simp] theorem State.clearLens_host (s : State) (x : Alphabet): (s.clearLens x).host = s.host := by
  simp [State.clearLens]
@[simp] theorem State.clearLens_hostData (s : State) (x : Alphabet): (s.clearLens x).hostData = s.hostData := by
  simp [State.clearLens]
@[simp] theorem State.clearLens_freeIx (s : State) (x : Alphabet): (s.clearLens x).freeIx = s.freeIx := by
  simp [State.clearLens]
@[simp] theorem State.clearLens_unitResult (s : State) (x : Alphabet): (s.clearLens x).unitResult = s.unitResult := by
  simp [State.clearLens]
@[simp] theorem State.clearLens_lenIndex (s : State) (x : Alphabet): (s.clearLens x).lenIndex = s.lenIndex := by
  simp [State.clearLens]

/-! ## Table units in the state -/

@[simp] theorem State.unit_setUnit_same (s : State) (x : Alphabet) (u : TableUnit) : (s.setUnit x u).unit x = u := by
  cases x <;> rfl

theorem State.unit_setUnit_other (s : State) {x y : Alphabet} (u : TableUnit) (h : x ≠ y) :
    (s.setUnit x u).unit y = s.unit y := by
  cases x <;> cases y <;> first | rfl | exact absurd rfl h

@[simp] theorem State.setUnit_setUnit (s : State) (x : Alphabet) (u v : TableUnit) :
    (s.setUnit x u).setUnit x v = s.setUnit x v := by
  cases x <;> rfl

@[simp] theorem State.setUnit_unit (s : State) (x : Alphabet) : s.setUnit x (s.unit x) = s := by
  cases x <;> rfl

@[simp] theorem State.unit_consume (s : State) (n : Nat) (x : Alphabet) : (s.consume n).unit x = s.unit x := by
  cases x <;> rfl

@[simp] theorem State.unit_faulted (s : State) (c : Cause) (x : Alphabet) : (s.faulted c).unit x = s.unit x := by
  cases x <;> rfl

@[simp] theorem State.unit_memWrite (s : State) (p : Space) (a : Nat) (v : Byte) (x : Alphabet) :
    (s.memWrite p a v).unit x = s.unit x := by
  cases p <;> cases x <;> rfl

@[simp] theorem State.endBlock_phase (s : State) :
    s.endBlock.phase = if s.blockCount = 0#16 then .blockHeader else s.phase := by
  unfold State.endBlock; split <;> simp_all

@[simp] theorem State.unit_setLen_same (s : State) (x : Alphabet) (i l : Nat) :
    (s.setLen x i l).unit x = { s.unit x with len := (s.unit x).len.set i (BitVec.ofNat 5 l) } := by
  simp [State.setLen]

@[simp] theorem State.unit_clearLens_same (s : State) (x : Alphabet) :
    (s.clearLens x).unit x = { s.unit x with len := List.replicate x.size 0#5 } := by
  simp [State.clearLens]

/-! ## The small tables of the spec, constructor by constructor -/

@[simp] theorem Alphabet.size_t : Alphabet.t.size = 19 := rfl
@[simp] theorem Alphabet.size_c : Alphabet.c.size = 510 := rfl
@[simp] theorem Alphabet.size_p : Alphabet.p.size = 14 := rfl
@[simp] theorem Alphabet.tableBits_t : Alphabet.t.tableBits = 8 := rfl
@[simp] theorem Alphabet.tableBits_c : Alphabet.c.tableBits = 12 := rfl
@[simp] theorem Alphabet.tableBits_p : Alphabet.p.tableBits = 8 := rfl
@[simp] theorem Alphabet.countBits_t : Alphabet.t.countBits = 5 := rfl
@[simp] theorem Alphabet.countBits_c : Alphabet.c.countBits = 9 := rfl
@[simp] theorem Alphabet.countBits_p : Alphabet.p.countBits = 4 := rfl
@[simp] theorem Alphabet.sectionInstr_t : Alphabet.t.sectionInstr = .lh5Tlen := rfl
@[simp] theorem Alphabet.sectionInstr_c : Alphabet.c.sectionInstr = .lh5Clen := rfl
@[simp] theorem Alphabet.sectionInstr_p : Alphabet.p.sectionInstr = .lh5Plen := rfl

@[simp] theorem HostCommand.instr_reset : HostCommand.reset.instr = .cmdReset := rfl
@[simp] theorem HostCommand.instr_start : HostCommand.start.instr = .cmdStart := rfl
@[simp] theorem HostCommand.instr_abort : HostCommand.abort.instr = .cmdAbort := rfl

@[simp] theorem Cause.code_malformedTable (c : TableCause) (n : Nat) : (Cause.malformedTable c n).code = 1#3 := rfl
@[simp] theorem Cause.code_offsetBeforeStart (n : Nat) : (Cause.offsetBeforeStart n).code = 2#3 := rfl
@[simp] theorem Cause.code_truncatedInput (p : EofPlace) (w : Word) : (Cause.truncatedInput p w).code = 3#3 := rfl
@[simp] theorem Cause.code_unsupported (c : BitVec 3) : (Cause.unsupportedCompression c).code = 4#3 := rfl
@[simp] theorem Cause.code_ringUnwritten (n : Nat) : (Cause.ringUnwritten n).code = 6#3 := rfl

@[simp] theorem Cause.sub_malformedTable (c : TableCause) (n : Nat) : (Cause.malformedTable c n).sub = c.sub := rfl
@[simp] theorem Cause.sub_offsetBeforeStart (n : Nat) : (Cause.offsetBeforeStart n).sub = 0#4 := rfl
@[simp] theorem Cause.sub_truncatedInput (p : EofPlace) (w : Word) : (Cause.truncatedInput p w).sub = p.sub := rfl
@[simp] theorem Cause.sub_unsupported (c : BitVec 3) : (Cause.unsupportedCompression c).sub = 0#4 := rfl
@[simp] theorem Cause.sub_ringUnwritten (n : Nat) : (Cause.ringUnwritten n).sub = 0#4 := rfl

@[simp] theorem Cause.info_malformedTable (c : TableCause) (n : Nat) :
    (Cause.malformedTable c n).info = BitVec.ofNat 32 n := rfl
@[simp] theorem Cause.info_offsetBeforeStart (n : Nat) : (Cause.offsetBeforeStart n).info = BitVec.ofNat 32 n := rfl
@[simp] theorem Cause.info_truncatedInput (p : EofPlace) (w : Word) : (Cause.truncatedInput p w).info = w := rfl
@[simp] theorem Cause.info_unsupported (c : BitVec 3) : (Cause.unsupportedCompression c).info = c.setWidth 32 := rfl
@[simp] theorem Cause.info_ringUnwritten (n : Nat) : (Cause.ringUnwritten n).info = BitVec.ofNat 32 n := rfl

@[simp] theorem TableCause.sub_lenGt16 : TableCause.lenGt16.sub = 1#4 := rfl
@[simp] theorem TableCause.sub_codeSpace : TableCause.codeSpace.sub = 2#4 := rfl
@[simp] theorem TableCause.sub_nodeIndex : TableCause.nodeIndex.sub = 3#4 := rfl
@[simp] theorem TableCause.sub_count : TableCause.count.sub = 4#4 := rfl
@[simp] theorem TableCause.sub_constSymbol : TableCause.constSymbol.sub = 5#4 := rfl
@[simp] theorem TableCause.sub_zeroRun : TableCause.zeroRun.sub = 6#4 := rfl
@[simp] theorem EofPlace.sub_ctrlByte : EofPlace.ctrlByte.sub = 1#4 := rfl
@[simp] theorem EofPlace.sub_literal : EofPlace.literal.sub = 2#4 := rfl
@[simp] theorem EofPlace.sub_pairFirst : EofPlace.pairFirst.sub = 3#4 := rfl
@[simp] theorem EofPlace.sub_pairSecond : EofPlace.pairSecond.sub = 4#4 := rfl

end Sys2Proof.Machine
end

