-- ==== Sys2Proof/Laws/Memory.lean ====
section
/-! SUPPORT. The laws of the byte spaces: a read after a write, a write elsewhere, and the canonical form kept. -/

namespace Sys2Proof.Machine

/-! ## Lookup -/

@[simp] theorem Memory.lookup_nil (a : Nat) : Memory.lookup [] a = none := rfl

theorem Memory.lookup_cons (b : Nat) (w : Byte) (m : Memory) (a : Nat) :
    Memory.lookup ((b, w) :: m) a = if b = a then some w else Memory.lookup m a := rfl

theorem Memory.lookup_insert (a : Nat) (v : Byte) (m : Memory) (c : Nat) :
    Memory.lookup (Memory.insert a v m) c = if a = c then some v else Memory.lookup m c := by
  induction m with
  | nil => rfl
  | cons cell m ih =>
    obtain ⟨b, w⟩ := cell
    simp only [Memory.insert]
    by_cases h1 : a < b
    · simp [h1, Memory.lookup_cons]
    · by_cases h2 : a = b
      · subst h2
        by_cases hc : a = c <;> simp [hc, Memory.lookup_cons]
      · by_cases hc : a = c
        · subst hc
          simp [h1, h2, Ne.symm h2, Memory.lookup_cons, ih]
        · simp [h1, h2, hc, Memory.lookup_cons, ih]

/-! ## The canonical form -/

theorem Memory.rising_mono {n k : Nat} {m : Memory} (h : Memory.rising n m = true) (hk : k ≤ n) :
    Memory.rising k m = true := by
  cases m with
  | nil => rfl
  | cons cell m =>
    obtain ⟨b, w⟩ := cell
    simp only [Memory.rising, Bool.and_eq_true, decide_eq_true_eq] at h ⊢
    exact ⟨by omega, h.2⟩

theorem Memory.lookup_below {n : Nat} {m : Memory} (h : Memory.rising n m = true) {a : Nat} (ha : a < n) :
    Memory.lookup m a = none := by
  induction m generalizing n with
  | nil => rfl
  | cons cell m ih =>
    obtain ⟨b, w⟩ := cell
    simp only [Memory.rising, Bool.and_eq_true, decide_eq_true_eq] at h
    rw [Memory.lookup_cons, if_neg (by omega)]
    exact ih h.2 (by omega)

theorem Memory.lookup_erase {n : Nat} {m : Memory} (h : Memory.rising n m = true) (a c : Nat) :
    Memory.lookup (Memory.erase a m) c = if a = c then none else Memory.lookup m c := by
  induction m generalizing n with
  | nil => simp [Memory.erase]
  | cons cell m ih =>
    obtain ⟨b, w⟩ := cell
    simp only [Memory.rising, Bool.and_eq_true, decide_eq_true_eq] at h
    simp only [Memory.erase]
    by_cases hb : b = a
    · subst hb
      by_cases hc : b = c
      · subst hc
        simp [Memory.lookup_below h.2 (Nat.lt_succ_self b)]
      · simp [hc, Memory.lookup_cons]
    · rw [if_neg hb, Memory.lookup_cons, Memory.lookup_cons, ih h.2]
      by_cases hc : a = c
      · subst hc
        simp [hb]
      · simp [hc]

theorem Memory.rising_insert {n : Nat} {m : Memory} (h : Memory.rising n m = true) {a : Nat} (v : Byte) (ha : n ≤ a) :
    Memory.rising n (Memory.insert a v m) = true := by
  induction m generalizing n with
  | nil => simp [Memory.insert, Memory.rising, ha]
  | cons cell m ih =>
    obtain ⟨b, w⟩ := cell
    simp only [Memory.rising, Bool.and_eq_true, decide_eq_true_eq] at h
    simp only [Memory.insert]
    split_ifs with h1 h2
    · simp only [Memory.rising, Bool.and_eq_true, decide_eq_true_eq]
      exact ⟨ha, by omega, h.2⟩
    · subst h2
      simp only [Memory.rising, Bool.and_eq_true, decide_eq_true_eq]
      exact ⟨ha, h.2⟩
    · simp only [Memory.rising, Bool.and_eq_true, decide_eq_true_eq]
      exact ⟨h.1, ih h.2 (by omega)⟩

theorem Memory.rising_erase {n : Nat} {m : Memory} (h : Memory.rising n m = true) (a : Nat) :
    Memory.rising n (Memory.erase a m) = true := by
  induction m generalizing n with
  | nil => rfl
  | cons cell m ih =>
    obtain ⟨b, w⟩ := cell
    simp only [Memory.rising, Bool.and_eq_true, decide_eq_true_eq] at h
    simp only [Memory.erase]
    split_ifs with hb
    · exact Memory.rising_mono h.2 (by omega)
    · simp only [Memory.rising, Bool.and_eq_true, decide_eq_true_eq]
      exact ⟨h.1, ih h.2⟩

theorem Memory.all_insert (p : Host.Cell → Bool) {m : Memory} (h : m.all p = true) {a : Nat} {v : Byte}
    (hv : p (a, v) = true) : (Memory.insert a v m).all p = true := by
  induction m with
  | nil => simp [Memory.insert, hv]
  | cons cell m ih =>
    obtain ⟨b, w⟩ := cell
    simp only [List.all_cons, Bool.and_eq_true] at h
    simp only [Memory.insert]
    split_ifs <;> simp [hv, h.1, h.2, ih h.2]

theorem Memory.all_erase (p : Host.Cell → Bool) {m : Memory} (h : m.all p = true) (a : Nat) :
    (Memory.erase a m).all p = true := by
  induction m with
  | nil => rfl
  | cons cell m ih =>
    obtain ⟨b, w⟩ := cell
    simp only [List.all_cons, Bool.and_eq_true] at h
    simp only [Memory.erase]
    split_ifs
    · exact h.2
    · simp [h.1, ih h.2]

/-- Every write keeps the canonical form. -/
theorem Memory.wf_store (blank : Option Byte) (a : Nat) (v : Byte) {m : Memory} (h : Memory.wf blank m = true) :
    Memory.wf blank (Memory.store blank a v m) = true := by
  simp only [Memory.wf, Bool.and_eq_true] at h ⊢
  unfold Memory.store
  split_ifs with hb
  · exact ⟨Memory.rising_erase h.1 a, Memory.all_erase _ h.2 a⟩
  · exact ⟨Memory.rising_insert h.1 v (Nat.zero_le a), Memory.all_insert _ h.2 (by simpa using hb)⟩

/-- A read after a write gives the byte written, and every other address reads as before. -/
theorem Memory.load_store (blank : Option Byte) (a : Nat) (v : Byte) {m : Memory} (h : Memory.wf blank m = true)
    (c : Nat) : Memory.load blank (Memory.store blank a v m) c = if a = c then some v else Memory.load blank m c := by
  simp only [Memory.wf, Bool.and_eq_true] at h
  unfold Memory.load Memory.store
  split_ifs with hb hc hc
  · rw [Memory.lookup_erase h.1, if_pos hc, Option.none_or, hb]
  · rw [Memory.lookup_erase h.1, if_neg hc]
  · rw [Memory.lookup_insert, if_pos hc, Option.some_or]
  · rw [Memory.lookup_insert, if_neg hc]

/-- The same for OUT, whose unlisted cells have no value, in any list. -/
theorem Memory.load_store_none (a : Nat) (v : Byte) (m : Memory) (c : Nat) :
    Memory.load none (Memory.store none a v m) c = if a = c then some v else Memory.load none m c := by
  simp only [Memory.load, Memory.store, reduceCtorEq, if_false, Option.or_none]
  exact Memory.lookup_insert a v m c

/-! ## The spaces of the state -/

@[simp] theorem State.blank_memWrite (s : State) (p q : Space) (a : Nat) (v : Byte) :
    (s.memWrite p a v).blank q = s.blank q := by
  cases q <;> simp [State.blank]

theorem State.memory_memWrite_same (s : State) (p : Space) (a : Nat) (v : Byte) :
    (s.memWrite p a v).memory p = Memory.store (s.blank p) a v (s.memory p) := by
  cases p <;> rfl

theorem State.memory_memWrite_other (s : State) {p q : Space} (a : Nat) (v : Byte) (h : p ≠ q) :
    (s.memWrite p a v).memory q = s.memory q := by
  cases p <;> cases q <;> first | rfl | exact absurd rfl h

/-- A write to a space changes one address of that space and no other space. -/
theorem State.memRead_memWrite (s : State) (p : Space) (a : Nat) (v : Byte)
    (h : Memory.wf (s.blank p) (s.memory p) = true) (q : Space) (c : Nat) :
    (s.memWrite p a v).memRead q c = if p = q ∧ a = c then some v else s.memRead q c := by
  unfold State.memRead
  by_cases hpq : p = q
  · subst hpq
    rw [State.blank_memWrite, State.memory_memWrite_same, Memory.load_store _ _ _ h]
    simp
  · rw [State.blank_memWrite, State.memory_memWrite_other s a v hpq]
    simp [hpq]

/-- The same for OUT, in any state. -/
theorem State.memRead_memWrite_out (s : State) (a : Nat) (v : Byte) (q : Space) (c : Nat) :
    (s.memWrite .out a v).memRead q c = if q = .out ∧ a = c then some v else s.memRead q c := by
  cases q <;> simp [State.memRead, State.memory, State.blank, State.memWrite, Memory.load_store_none]

/-- Every write to the state keeps its memories canonical. -/
theorem State.memoriesCanonical_memWrite {s : State} (h : s.memoriesCanonical) (p : Space) (a : Nat) (v : Byte) :
    (s.memWrite p a v).memoriesCanonical := by
  intro q
  rw [State.blank_memWrite]
  by_cases hpq : p = q
  · subst hpq
    rw [State.memory_memWrite_same]
    exact Memory.wf_store _ a v (h p)
  · rw [State.memory_memWrite_other s a v hpq]
    exact h q

/-- The memories of the state after reset are canonical. -/
theorem State.reset_memories_wf (p : Space) : Memory.wf (State.reset.blank p) (State.reset.memory p) = true := by
  cases p <;> rfl

end Sys2Proof.Machine
end

