-- ==== Sys2Proof/Laws/Ops.lean ====
section
/-! SUPPORT. One lemma for each shared operation that says everything it can do, to be cited instead of unfolding it. -/

namespace Sys2Proof.Machine

/-! ## Sequencing -/

@[simp] theorem Res.bind_ok {α β : Type} (a : α) (s : State) (f : α → State → Res β) : (Res.ok a s).bind f = f a s := rfl
@[simp] theorem Res.bind_ended {α β : Type} (s : State) (f : α → State → Res β) : (Res.ended s).bind f = .ended s := rfl
@[simp] theorem Res.bind_stop {α β : Type} (e : Fault) (f : α → State → Res β) : (Res.stop e).bind f = .stop e := rfl
@[simp] theorem raise_bind {α β : Type} (c : Cause) (s : State) (f : α → State → Res β) :
    (raise c s : Res α).bind f = raise c s := rfl
@[simp] theorem raise_ne_ok {α : Type} (c : Cause) (s t : State) (a : α) : raise c s ≠ .ok a t := nofun
@[simp] theorem raise_ne_stop {α : Type} (c : Cause) (s : State) (e : Fault) : (raise c s : Res α) ≠ .stop e := nofun

theorem Res.bind_eq_ok {α β : Type} {r : Res α} {f : α → State → Res β} {b : β} {t : State} :
    r.bind f = .ok b t ↔ ∃ a s, r = .ok a s ∧ f a s = .ok b t := by
  cases r <;> simp

theorem Res.bind_eq_ended {α β : Type} {r : Res α} {f : α → State → Res β} {t : State} :
    r.bind f = .ended t ↔ r = .ended t ∨ ∃ a s, r = .ok a s ∧ f a s = .ended t := by
  cases r <;> simp

theorem Res.bind_eq_stop {α β : Type} {r : Res α} {f : α → State → Res β} {e : Fault} :
    r.bind f = .stop e ↔ r = .stop e ∨ ∃ a s, r = .ok a s ∧ f a s = .stop e := by
  cases r <;> simp

theorem Res.toOutcome_eq_next {r : Res Unit} {t : State} :
    r.toOutcome = .next t ↔ r = .ok () t ∨ r = .ended t := by
  cases r <;> simp [Res.toOutcome]

theorem Res.toUnitOutcome_eq_next {r : Res Nat} {t : State} :
    r.toUnitOutcome = .next t ↔ (∃ v s, r = .ok v s ∧ t = { s with unitResult := v }) ∨ r = .ended t := by
  cases r <;> simp [Res.toUnitOutcome, eq_comm]

theorem Res.toItemOutcome_eq_next {r : Res Nat} {t : State} :
    r.toItemOutcome = .next t ↔ (∃ i s, r = .ok i s ∧ t = { s with lenIndex := i }) ∨ r = .ended t := by
  cases r <;> simp [Res.toItemOutcome, eq_comm]

/-! ## Output -/

/-- EMIT within EXPANDED_SIZE. -/
theorem emit_ok (v : Byte) {s : State} (h : s.outCount < s.expandedSize) :
    emit v s = .ok () { s.memWrite .out s.outCount.toNat v with outCount := s.outCount + 1#32 } := by
  simp [emit, h]

/-- All that EMIT can do. -/
theorem emit_cases (v : Byte) (s : State) :
    (s.outCount < s.expandedSize ∧
      emit v s = .ok () { s.memWrite .out s.outCount.toNat v with outCount := s.outCount + 1#32 }) ∨
    (¬ s.outCount < s.expandedSize ∧ emit v s = .stop .outOutOfRange) := by
  by_cases h : s.outCount < s.expandedSize
  · exact .inl ⟨h, emit_ok v h⟩
  · exact .inr ⟨h, by simp [emit, h]⟩

/-- All that the LZSS decoder's EMIT can do. -/
theorem emitRing_cases (v : Byte) (s : State) :
    (s.outCount < s.expandedSize ∧
      emitRing v s = .ok ()
        { ({ s.memWrite .out s.outCount.toNat v with outCount := s.outCount + 1#32 } : State).memWrite .ring
            s.ringW.toNat v with ringW := s.ringW + 1#12 }) ∨
    (¬ s.outCount < s.expandedSize ∧ emitRing v s = .stop .outOutOfRange) := by
  rcases emit_cases v s with ⟨h, e⟩ | ⟨h, e⟩
  · exact .inl ⟨h, by simp [emitRing, e]⟩
  · exact .inr ⟨h, by simp [emitRing, e]⟩

/-! ## LZSS input -/

/-- All that TAKEBIT can do. -/
theorem takeBit_cases (s : State) :
    (s.ctrlLeft ≠ 0#4 ∧
      takeBit s = .ok s.decisionBit { s with ctrl := s.ctrl <<< 1, ctrlLeft := s.ctrlLeft - 1#4 }) ∨
    (s.ctrlLeft = 0#4 ∧ takeBit s = .stop .noDecisionBit) := by
  by_cases h : s.ctrlLeft = 0#4
  · exact .inr ⟨h, by simp [takeBit, h]⟩
  · exact .inl ⟨h, if_neg h⟩

/-- All that FETCH can do. -/
theorem fetchByte_cases (s : State) :
    (s.inPos = s.inLen ∧ fetchByte s = .ok none s) ∨
    (s.inPos < s.inLen ∧
      fetchByte s = .ok (some ((s.memRead .inn s.inPos.toNat).getD 0#8)) { s with inPos := s.inPos + 1#32 }) ∨
    (s.inLen < s.inPos ∧ fetchByte s = .stop .inOutOfRange) := by
  by_cases h : s.inPos = s.inLen
  · exact .inl ⟨h, by simp [fetchByte, h]⟩
  · by_cases h' : s.inPos < s.inLen
    · exact .inr (.inl ⟨h', by simp [fetchByte, h, h']⟩)
    · refine .inr (.inr ⟨?_, by simp [fetchByte, h, h']⟩)
      bv_omega

/-- All that EOF(where) can do. -/
theorem endOfInput_cases {α : Type} (place : EofPlace) (s : State) :
    (s.params.eofPolicy = .fault ∧ (endOfInput place s : Res α) = raise (.truncatedInput place s.inPos) s) ∨
    (s.params.eofPolicy = .finish ∧ (endOfInput place s : Res α) = .ended s.finish) := by
  unfold endOfInput
  cases s.params.eofPolicy <;> simp

/-- All that a FETCH followed by EOF(where) can do. -/
theorem fetchOrEnd_cases (place : EofPlace) (s : State) :
    (s.inPos = s.inLen ∧ s.params.eofPolicy = .fault ∧
      fetchOrEnd place s = raise (.truncatedInput place s.inPos) s) ∨
    (s.inPos = s.inLen ∧ s.params.eofPolicy = .finish ∧ fetchOrEnd place s = .ended s.finish) ∨
    (s.inPos < s.inLen ∧
      fetchOrEnd place s = .ok ((s.memRead .inn s.inPos.toNat).getD 0#8) { s with inPos := s.inPos + 1#32 }) ∨
    (s.inLen < s.inPos ∧ fetchOrEnd place s = .stop .inOutOfRange) := by
  rcases fetchByte_cases s with ⟨h, e⟩ | ⟨h, e⟩ | ⟨h, e⟩
  · rcases endOfInput_cases (α := Byte) place s with ⟨p, e'⟩ | ⟨p, e'⟩
    · exact .inl ⟨h, p, by simp [fetchOrEnd, e, e']⟩
    · exact .inr (.inl ⟨h, p, by simp [fetchOrEnd, e, e']⟩)
  · exact .inr (.inr (.inl ⟨h, by simp [fetchOrEnd, e]⟩))
  · exact .inr (.inr (.inr ⟨h, by simp [fetchOrEnd, e]⟩))

/-- All that the fetch of a pair's second byte can do. -/
theorem fetchSecond_cases (s : State) :
    (s.inPos = s.inLen ∧ fetchSecond s = raise (.truncatedInput .pairSecond s.inPos) s) ∨
    (s.inPos < s.inLen ∧
      fetchSecond s = .ok ((s.memRead .inn s.inPos.toNat).getD 0#8) { s with inPos := s.inPos + 1#32 }) ∨
    (s.inLen < s.inPos ∧ fetchSecond s = .stop .inOutOfRange) := by
  rcases fetchByte_cases s with ⟨h, e⟩ | ⟨h, e⟩ | ⟨h, e⟩
  · exact .inl ⟨h, by simp [fetchSecond, e]⟩
  · exact .inr (.inl ⟨h, by simp [fetchSecond, e]⟩)
  · exact .inr (.inr ⟨h, by simp [fetchSecond, e]⟩)

/-! ## The stream -/

/-- The n bits from k on are the sum of 40_bitreader.md R132. -/
theorem State.bitsFrom_eq_sum (s : State) (k n : Nat) :
    s.bitsFrom k n = ∑ i ∈ Finset.range n, (s.streamBit (k + i)).toNat * 2 ^ (n - 1 - i) := by
  induction n with
  | zero => rfl
  | succ n ih =>
    rw [State.bitsFrom, ih, Finset.sum_range_succ, Finset.mul_sum]
    simp only [Nat.add_sub_cancel, Nat.sub_self, pow_zero, mul_one, add_left_inj]
    refine Finset.sum_congr rfl fun i hi => ?_
    rw [show n - i = (n - 1 - i) + 1 by have := Finset.mem_range.mp hi; omega, pow_succ]
    ring

/-- PEEK(n) is the value of the field at the cursor. -/
theorem State.peek_eq_fieldValue (s : State) (n : Nat) : s.peek n = s.fieldValue n := s.bitsFrom_eq_sum s.bitpos n

/-- n bits are a number below 2^n. -/
theorem State.bitsFrom_lt (s : State) (k n : Nat) : s.bitsFrom k n < 2 ^ n := by
  induction n with
  | zero => simp [State.bitsFrom]
  | succ n ih =>
    have := Bool.toNat_lt (s.streamBit (k + n))
    rw [State.bitsFrom, pow_succ]
    omega

/-! ## LH5 fields -/

/-- All that LC.LEN can do. -/
theorem lengthCode_cases (s : State) :
    (lengthCodeValue (s.peek 16) ≤ 16 ∧
      lengthCode s = .ok (lengthCodeValue (s.peek 16)) (s.consume (lengthCodeWidth (lengthCodeValue (s.peek 16))))) ∨
    (16 < lengthCodeValue (s.peek 16) ∧
      lengthCode s = raise (.malformedTable .lenGt16 (lengthCodeValue (s.peek 16))) s) := by
  by_cases h : 16 < lengthCodeValue (s.peek 16)
  · exact .inr ⟨h, by simp [lengthCode, h]⟩
  · exact .inl ⟨by omega, by simp [lengthCode, h]⟩

/-- All that a zero run of the C section can do. -/
theorem zeroRun_cases (i run : Nat) (s : State) :
    (i + run ≤ 510 ∧ zeroRun i run s = .ok (i + run) s) ∨
    (510 < i + run ∧ zeroRun i run s = raise (.malformedTable .zeroRun (i + run)) s) := by
  by_cases h : 510 < i + run
  · exact .inr ⟨h, by simp [zeroRun, h]⟩
  · exact .inl ⟨by omega, by simp [zeroRun, h]⟩

/-! ## Table units -/

/-- All that HT.CONST can do. -/
theorem constTable_cases (x : Alphabet) (c : Nat) (s : State) :
    (c < x.size ∧
      constTable x c s = .ok ()
        (s.setUnit x { s.unit x with len := List.replicate x.size 0#5, constV := true, constSym := c })) ∨
    (x.size ≤ c ∧ constTable x c s = raise (.malformedTable .constSymbol c) s) := by
  by_cases h : x.size ≤ c
  · exact .inr ⟨h, by simp [constTable, h]⟩
  · refine .inl ⟨by omega, ?_⟩
    simp [constTable, h, State.clearLens]

/-- All that HT.BUILD can do. -/
theorem buildTable_cases (x : Alphabet) (s : State) :
    (∃ l, lengthAbove16 (s.unit x).lens = some l ∧ buildTable x s = raise (.malformedTable .lenGt16 l) s) ∨
    (lengthAbove16 (s.unit x).lens = none ∧ codeSpaceTotal (s.unit x).lens ≠ 65536 ∧
      buildTable x s = raise (.malformedTable .codeSpace (codeSpaceTotal (s.unit x).lens)) s) ∨
    (lengthAbove16 (s.unit x).lens = none ∧ codeSpaceTotal (s.unit x).lens = 65536 ∧
      ∃ u, assignAll x (s.unit x).lens 0 (startOffsets (s.unit x).lens) ((s.unit x).cleared x) = .error u ∧
        buildTable x s = raise (.malformedTable .nodeIndex u.avail) (s.setUnit x u)) ∨
    (lengthAbove16 (s.unit x).lens = none ∧ codeSpaceTotal (s.unit x).lens = 65536 ∧
      ∃ u, assignAll x (s.unit x).lens 0 (startOffsets (s.unit x).lens) ((s.unit x).cleared x) = .ok u ∧
        buildTable x s = .ok () (s.setUnit x u)) := by
  cases hl : lengthAbove16 (s.unit x).lens with
  | some l => exact .inl ⟨l, rfl, by simp [buildTable, hl]⟩
  | none =>
    by_cases ht : codeSpaceTotal (s.unit x).lens = 65536
    · cases ha : assignAll x (s.unit x).lens 0 (startOffsets (s.unit x).lens) ((s.unit x).cleared x) with
      | error u => exact .inr (.inr (.inl ⟨rfl, ht, u, rfl, by simp [buildTable, hl, ht, ha]⟩))
      | ok u => exact .inr (.inr (.inr ⟨rfl, ht, u, rfl, by simp [buildTable, hl, ht, ha]⟩))
    · exact .inr (.inl ⟨rfl, ht, by simp [buildTable, hl, ht]⟩)

/-- The free symbol is a symbol. -/
theorem State.freeSymbol_lt (s : State) (x : Alphabet) : s.freeSymbol x < x.size :=
  Nat.mod_lt _ (by cases x <;> decide)

/-- All that HT.DECODE can do. -/
theorem decodeSymbol_cases (x : Alphabet) (s : State) :
    ((s.unit x).constV = true ∧ decodeSymbol x s = .ok (s.unit x).constSym s) ∨
    ((s.unit x).constV = false ∧ ∃ v, (s.unit x).symbolAt x (s.peek 16) = some v ∧
      decodeSymbol x s = .ok v (s.consume ((s.unit x).lenOf v))) ∨
    ((s.unit x).constV = false ∧ (s.unit x).symbolAt x (s.peek 16) = none ∧ s.freeSymbol x < x.size ∧
      decodeSymbol x s = .ok (s.freeSymbol x)
        { s with bitpos := s.bitpos + (s.unit x).lenOf (s.freeSymbol x), freeIx := s.freeIx + 1 }) := by
  cases hc : (s.unit x).constV with
  | true => exact .inl ⟨rfl, by simp [decodeSymbol, hc]⟩
  | false =>
    cases hv : (s.unit x).symbolAt x (s.peek 16) with
    | none => exact .inr (.inr ⟨rfl, rfl, s.freeSymbol_lt x, by simp [decodeSymbol, decodeBuilt, hc, hv, State.consume]⟩)
    | some v => exact .inr (.inl ⟨rfl, v, rfl, by simp [decodeSymbol, decodeBuilt, hc, hv]⟩)

/-- HT.DECODE never ends an operation and never stops. -/
theorem decodeSymbol_ok (x : Alphabet) (s : State) : ∃ v t, decodeSymbol x s = .ok v t := by
  rcases decodeSymbol_cases x s with ⟨_, e⟩ | ⟨_, v, _, e⟩ | ⟨_, _, _, e⟩ <;> exact ⟨_, _, e⟩

/-- DECODE(X) on a table that gives symbol v with w bits at the cursor. -/
theorem decodeSymbol_of_codeAt {x : Alphabet} {s : State} {v w : Nat} (h : s.codeAt x v w) :
    decodeSymbol x s = .ok v (s.consume w) := by
  rcases h with ⟨hc, rfl, rfl⟩ | ⟨hc, hv, rfl⟩
  · rw [show s.consume 0 = s from rfl]
    simp [decodeSymbol, hc]
  · rw [← State.peek_eq_fieldValue] at hv
    simp [decodeSymbol, decodeBuilt, hc, hv]

/-! ## LH5 distances -/

/-- All that LH5.DIST can do after its P symbol p is decoded. -/
theorem distance_of_symbol {s s' : State} {p : Nat} (h : decodeSymbol .p s = .ok p s') :
    distance s = .ok (if p = 0 then 0 else 2 ^ (p - 1) + s'.peek (p - 1)) (s'.consume (p - 1)) := by
  by_cases hp : p = 0
  · subst hp
    simp [distance, h, State.consume]
  · simp [distance, h, hp, getBits, extraBits, distanceOf]

end Sys2Proof.Machine
end

