-- ==== Sys2Proof/Laws/PerInstr.lean ====
section
/-! SUPPORT. What holds of every operation as syntax, one lemma per constructor: its selector, where it has one, decodes
back to it (30_encoding.md R126), and only the unit operations and the commands have none. -/

namespace Sys2Proof.Laws.SelectorRoundTrip

/-- The decoder reads a well-formed operation back from its selector. -/
def Statement (i : Instr) : Prop :=
  i.wellFormed = true → ∀ sel, encode i = some sel → decode sel = .ok i

theorem brInit : Statement .brInit := nofun
theorem brPeek (n : Nat) : Statement (.brPeek n) := nofun
theorem brConsume (n : Nat) : Statement (.brConsume n) := nofun
theorem brGet (n : Nat) : Statement (.brGet n) := nofun
theorem htBuild (x : Alphabet) : Statement (.htBuild x) := nofun
theorem htConst (x : Alphabet) (c : Nat) : Statement (.htConst x c) := nofun
theorem htDecode (x : Alphabet) : Statement (.htDecode x) := nofun
theorem lh5Hdr : Statement .lh5Hdr := by intro _ sel h; cases h; rfl
theorem lh5Blkcnt : Statement .lh5Blkcnt := by intro _ sel h; cases h; rfl
theorem lh5Tlen : Statement .lh5Tlen := by intro _ sel h; cases h; rfl
theorem lcLen : Statement .lcLen := by intro _ sel h; cases h; rfl
theorem lcTskip : Statement .lcTskip := by intro _ sel h; cases h; rfl
theorem lh5Clen : Statement .lh5Clen := by intro _ sel h; cases h; rfl
theorem clZero1 : Statement .clZero1 := by intro _ sel h; cases h; rfl
theorem clZrun4 : Statement .clZrun4 := by intro _ sel h; cases h; rfl
theorem clZrun9 : Statement .clZrun9 := by intro _ sel h; cases h; rfl
theorem clLen (t : Nat) : Statement (.clLen t) := by
  intro hw sel h
  cases h
  simp only [Instr.wellFormed, Bool.and_eq_true, decide_eq_true_eq] at hw
  simp [decode, decodeTSymbol, show t ≠ 0 by omega, show t ≠ 1 by omega, show t ≠ 2 by omega, show t < 19 by omega]
theorem lh5Plen : Statement .lh5Plen := by intro _ sel h; cases h; rfl
theorem lh5Sym : Statement .lh5Sym := by intro _ sel h; cases h; rfl
theorem lh5Lit (c : Nat) : Statement (.lh5Lit c) := by
  intro hw sel h
  cases h
  simp only [Instr.wellFormed, Config.litLimit, decide_eq_true_eq] at hw
  simp [decode, decodeCSymbol, hw]
theorem lh5Match (c : Nat) : Statement (.lh5Match c) := by
  intro hw sel h
  cases h
  simp only [Instr.wellFormed, Config.litLimit, Config.symbolsC, Bool.and_eq_true, decide_eq_true_eq] at hw
  simp [decode, decodeCSymbol, show ¬ c < 256 by omega, hw.2]
theorem lh5Dist : Statement .lh5Dist := by intro _ sel h; cases h; rfl
theorem lzssCtrl : Statement .lzssCtrl := by intro _ sel h; cases h; rfl
theorem lzssLit : Statement .lzssLit := by intro _ sel h; cases h; rfl
theorem lzssMatch : Statement .lzssMatch := by intro _ sel h; cases h; rfl
theorem cmdReset : Statement .cmdReset := nofun
theorem cmdStart : Statement .cmdStart := nofun
theorem cmdAbort : Statement .cmdAbort := nofun

end Sys2Proof.Laws.SelectorRoundTrip
end

