-- ==== Sys2Proof/Laws/Step.lean ====
section
/-! SUPPORT. What step selection and one turn can do. -/

namespace Sys2Proof.Machine

/-- All that step selection can find (43_lh5_streaming.md R231, 44_lzss.md R271). -/
theorem State.selection_cases (s : State) :
    (s.state ≠ .run ∧ s.selection = .quiescent) ∨
    (s.state = .run ∧ s.codecLegal = true ∧ s.outCount = s.expandedSize ∧ s.selection = .finish) ∨
    (s.state = .run ∧ s.codec = Config.codecLh5 ∧ s.outCount ≠ s.expandedSize ∧ s.phase = .blockHeader ∧
      s.selection = .operation .lh5Hdr) ∨
    (s.state = .run ∧ s.codec = Config.codecLh5 ∧ s.outCount ≠ s.expandedSize ∧ s.phase = .streaming ∧
      s.selection = .operation .lh5Sym) ∨
    (s.state = .run ∧ s.codec = Config.codecLzss ∧ s.outCount ≠ s.expandedSize ∧ s.ctrlLeft = 0#4 ∧
      s.selection = .operation .lzssCtrl) ∨
    (s.state = .run ∧ s.codec = Config.codecLzss ∧ s.outCount ≠ s.expandedSize ∧ s.ctrlLeft ≠ 0#4 ∧
      s.decisionBit = true ∧ s.selection = .operation .lzssLit) ∨
    (s.state = .run ∧ s.codec = Config.codecLzss ∧ s.outCount ≠ s.expandedSize ∧ s.ctrlLeft ≠ 0#4 ∧
      s.decisionBit = false ∧ s.selection = .operation .lzssMatch) ∨
    (s.state = .run ∧ s.codecLegal = false ∧ s.selection = .noDecoder) := by
  by_cases hr : s.state = .run
  · by_cases h5 : s.codec = 5#3
    · by_cases hd : s.outCount = s.expandedSize
      · simp [State.selection, State.codecLegal, hr, h5, hd]
      · cases hp : s.phase <;>
          simp [State.selection, State.codecLegal, State.lh5Selector, selectDecoded, decode, hr, h5, hd, hp]
    · by_cases h3 : s.codec = 3#3
      · by_cases hd : s.outCount = s.expandedSize
        · simp [State.selection, State.codecLegal, hr, h3, hd]
        · by_cases hl : s.ctrlLeft = 0#4
          · simp [State.selection, State.codecLegal, State.lzssSelector, selectDecoded, decode, hr, h3, hd, hl]
          · cases hb : s.decisionBit <;>
              simp [State.selection, State.codecLegal, State.lzssSelector, selectDecoded, decode, decodeToken, hr, h3,
                hd, hl, hb]
      · simp [State.selection, State.codecLegal, hr, h5, h3]
  · simp [State.selection, hr]

/-- All that one turn can be. -/
theorem step_cases (s : State) :
    (s.host = [] ∧ step s = blockStep s) ∨
    (∃ rest, s.host = .wait :: rest ∧ step s = blockStep { s with host := rest }) ∨
    (∃ c rest, s.host = .command c :: rest ∧ step s = exec c.instr { s with host := rest }) ∨
    (∃ a rest, s.host = a :: rest ∧ a ≠ .wait ∧ (∀ c, a ≠ .command c) ∧
      step s = hostAccess a { s with host := rest }) := by
  cases hh : s.host with
  | nil => exact .inl ⟨rfl, by simp [step, turn, hh]⟩
  | cons a rest =>
    cases a with
    | wait => exact .inr (.inl ⟨rest, rfl, by simp [step, turn, hh, hostTurn]⟩)
    | command c => exact .inr (.inr (.inl ⟨c, rest, rfl, by simp [step, turn, hh, hostTurn]⟩))
    | writeCodec v => exact .inr (.inr (.inr ⟨_, rest, rfl, nofun, nofun, by simp [step, turn, hh, hostTurn]⟩))
    | writeInLen v => exact .inr (.inr (.inr ⟨_, rest, rfl, nofun, nofun, by simp [step, turn, hh, hostTurn]⟩))
    | writeExpandedSize v => exact .inr (.inr (.inr ⟨_, rest, rfl, nofun, nofun, by simp [step, turn, hh, hostTurn]⟩))
    | writeIn b v => exact .inr (.inr (.inr ⟨_, rest, rfl, nofun, nofun, by simp [step, turn, hh, hostTurn]⟩))
    | writeOut b v => exact .inr (.inr (.inr ⟨_, rest, rfl, nofun, nofun, by simp [step, turn, hh, hostTurn]⟩))
    | read o => exact .inr (.inr (.inr ⟨_, rest, rfl, nofun, nofun, by simp [step, turn, hh, hostTurn]⟩))

/-- With no action pending, a step of the block starts in the state as it is. -/
theorem State.blockStart_of_nil {s : State} (h : s.host = []) : s.blockStart = s := by
  cases s
  subst h
  rfl

/-- A turn of the block is its step. -/
theorem step_of_blockTurn {s : State} (h : s.blockTurn) : step s = blockStep s.blockStart := by
  rcases step_cases s with ⟨hh, e⟩ | ⟨rest, hh, e⟩ | ⟨c, rest, hh, _⟩ | ⟨a, rest, hh, ha, _⟩
  · rw [e, State.blockStart_of_nil hh]
  · rw [e, State.blockStart, hh, List.tail_cons]
  · simp [State.blockTurn, hh] at h
  · simp [State.blockTurn, hh, ha] at h

end Sys2Proof.Machine
end

