-- ==== Sys2Proof/Tests/Slice0.lean ====
section
/-! SUPPORT. Tests: ill-formed terms refused, words written out bit by bit, one-step tests with the vectors of
95_test_vectors.md, and a witness for the hypotheses of every obligation. -/

namespace Sys2Proof.Tests

open Sys2Proof Sys2Proof.Machine

set_option Elab.async false

/-! ## Helpers -/

/-- What a question answers on the next state; none where there is none. -/
def onNext {α : Type} (o : Host.Outcome State Fault Refusal) (f : State → α) : Option α :=
  match o with
  | .next s => some (f s)
  | .fault _ => none
  | .refused _ => none

/-- The state after reset with a stream of bytes in IN. -/
def withBytes (bytes : List Nat) : State := State.reset.withStream (bytesToBits (bytes.map (BitVec.ofNat 8)))

/-- The state after reset with a stream of bits in IN. -/
def withBits (bits : List Bool) : State := State.reset.withStream bits

/-- A running LH5 job at its first block header. -/
def runLh5 (bytes : List Nat) (size : Nat) : State :=
  { withBytes bytes with codec := 5#3, state := .run, expandedSize := BitVec.ofNat 32 size }

/-- A running LZSS job at its first control byte. -/
def runLzss (bytes : List Nat) (size : Nat) : State :=
  { withBytes bytes with codec := 3#3, state := .run, expandedSize := BitVec.ofNat 32 size }

/-- A running LZSS job after its first control byte. -/
def runToken (ctrl : BitVec 8) (bytes : List Nat) (size : Nat) : State :=
  { runLzss bytes size with ctrl := ctrl, ctrlLeft := 8#4 }

/-- A running LH5 job in Streaming with single-symbol tables C and P. -/
def runSym (c p : Nat) (bytes : List Nat) (size : Nat) : State :=
  { runLh5 bytes size with
    phase := .streaming
    blockCount := 1#16
    tabC := { State.reset.tabC with constV := true, constSym := c }
    tabP := { State.reset.tabP with constV := true, constSym := p } }

/-- The state after reset with the lengths of one table preset. -/
def withLens (x : Alphabet) (ls : List Nat) : State :=
  State.reset.setUnit x
    { State.reset.unit x with len := ls.map (BitVec.ofNat 5) ++ List.replicate (x.size - ls.length) 0#5 }

/-- A state with OUT holding the given bytes. -/
def withOut (s : State) (bytes : List Nat) : State :=
  { s with
    outMem := (List.range bytes.length).zip (bytes.map (BitVec.ofNat 8))
    outCount := BitVec.ofNat 32 bytes.length }

/-- The OUT bytes of a state. -/
def outBytes (s : State) : List Nat := s.outMem.map fun cell => cell.2.toNat

/-- The fault registers and STATE. -/
def faultOf (s : State) : JobState × Nat × Nat × Nat :=
  (s.state, s.faultCode.toNat, s.faultSub.toNat, s.faultInfo.toNat)

/-- An outcome that is a next state with a property, as an existence statement. -/
theorem exists_next {o : Host.Outcome State Fault Refusal} (p : State → Bool) (h : onNext o p = some true) :
    ∃ t, o = .next t ∧ p t = true := by
  cases o with
  | next t => exact ⟨t, rfl, by simpa [onNext] using h⟩
  | fault e => simp [onNext] at h
  | refused e => simp [onNext] at h

/-! ## Ill-formed terms, each refused by its check -/

theorem test_wf_peek_wide : (Instr.brPeek 17).wellFormed = false := by decide
theorem test_wf_consume_wide : (Instr.brConsume 17).wellFormed = false := by decide
theorem test_wf_get_wide : (Instr.brGet 17).wellFormed = false := by decide
theorem test_wf_peek_widest : (Instr.brPeek 16).wellFormed = true := by decide
theorem test_wf_const_wide_t : (Instr.htConst .t 32).wellFormed = false := by decide
theorem test_wf_const_wide_c : (Instr.htConst .c 512).wellFormed = false := by decide
theorem test_wf_const_wide_p : (Instr.htConst .p 16).wellFormed = false := by decide
theorem test_wf_clLen_low : (Instr.clLen 2).wellFormed = false := by decide
theorem test_wf_clLen_high : (Instr.clLen 19).wellFormed = false := by decide
theorem test_wf_lit_high : (Instr.lh5Lit 256).wellFormed = false := by decide
theorem test_wf_match_low : (Instr.lh5Match 255).wellFormed = false := by decide
theorem test_wf_match_high : (Instr.lh5Match 510).wellFormed = false := by decide
theorem test_wf_field_length : (StreamField.lengthCode 17).wellFormed = false := by decide
theorem test_wf_field_extra_low : (StreamField.extra 1 0).wellFormed = false := by decide
theorem test_wf_field_extra_high : (StreamField.extra 14 0).wellFormed = false := by decide
theorem test_wf_field_extra_wide : (StreamField.extra 2 2).wellFormed = false := by decide

/-! ## Words written out bit by bit (30_encoding.md R93 to R99, R110 to R112) -/

/-- R93: BLKCNT = 4, 42_lh5_block_header.md R193's example. -/
theorem test_decode_blockCount :
    decodeField .blockCount
      [false, false, false, false, false, false, false, false, false, false, false, false, false, true, false, false] =
      some (.blockCount 4#16, []) := by decide
/-- R94: the TN field 00101. -/
theorem test_decode_tCount : decodeField .tCount [false, false, true, false, true] = some (.tCount 5#5, []) := by decide
/-- R94: the TC field 10011. -/
theorem test_decode_tSymbol : decodeField .tSymbol [true, false, false, true, true] = some (.tSymbol 19#5, []) := by decide
/-- R95: 110 is 6, and the bit after it is not read. -/
theorem test_decode_length6 : decodeField .lengthCode [true, true, false, true] = some (.lengthCode 6, [true]) := by decide
/-- R95: 111110 is 9. -/
theorem test_decode_length9 :
    decodeField .lengthCode [true, true, true, true, true, false] = some (.lengthCode 9, []) := by decide
/-- R95: 1111111111110 is 16. -/
theorem test_decode_length16 :
    decodeField .lengthCode
      [true, true, true, true, true, true, true, true, true, true, true, true, false] = some (.lengthCode 16, []) := by
  decide
/-- R95: thirteen ones are illegal. -/
theorem test_decode_length_illegal : decodeField .lengthCode (List.replicate 13 true) = none := by decide
/-- R94: TSKIP 01. -/
theorem test_decode_tSkip : decodeField .tSkip [false, true] = some (.tSkip 1#2, []) := by decide
/-- R96: the CN field 100000100 of R213. -/
theorem test_decode_cCount :
    decodeField .cCount [true, false, false, false, false, false, true, false, false] = some (.cCount 260#9, []) := by
  decide
/-- R96: the CC field 001000001, 'A'. -/
theorem test_decode_cSymbol :
    decodeField .cSymbol [false, false, true, false, false, false, false, false, true] = some (.cSymbol 65#9, []) := by
  decide
/-- R97: the field 0101 of CL.ZRUN4. -/
theorem test_decode_shortRun : decodeField .shortRun [false, true, false, true] = some (.shortRun 5#4, []) := by decide
/-- R97: the field 001001101 of CL.ZRUN9. -/
theorem test_decode_longRun :
    decodeField .longRun [false, false, true, false, false, true, true, false, true] = some (.longRun 77#9, []) := by
  decide
/-- R98: the PN field 0010 and the PC field 1110. -/
theorem test_decode_pCount : decodeField .pCount [false, false, true, false] = some (.pCount 2#4, []) := by decide
theorem test_decode_pSymbol : decodeField .pSymbol [true, true, true, false] = some (.pSymbol 14#4, []) := by decide
/-- R101: the two extra bits 10 of distance code 3. -/
theorem test_decode_extra : decodeField (.extra 3) [true, false, true] = some (.extra 3 2, [true]) := by decide
/-- R111: the control byte 11101000 of program P3. -/
theorem test_decode_control :
    decodeField .control [true, true, true, false, true, false, false, false] = some (.control 0xE8#8, []) := by decide
/-- R111: the literal byte 01000001. -/
theorem test_decode_literal :
    decodeField .literal [false, true, false, false, false, false, false, true] = some (.literal 0x41#8, []) := by decide
/-- R111, R112: the pair EE F3 of program P3: F = 0xFEE, LF = 3. -/
theorem test_decode_pair :
    decodeField .pair
      [true, true, true, false, true, true, true, false, true, true, true, true, false, false, true, true] =
      some (.pair 0xFEE#12 3#4, []) := by decide
/-- R121: a pair cut short is no pair. -/
theorem test_decode_pair_short : decodeField .pair (List.replicate 15 true) = none := by decide

/-- R97: the T symbols select the items. -/
theorem test_select_items :
    decode ⟨.cItem, 0⟩ = .ok .clZero1 ∧ decode ⟨.cItem, 1⟩ = .ok .clZrun4 ∧ decode ⟨.cItem, 2⟩ = .ok .clZrun9 ∧
      decode ⟨.cItem, 3⟩ = .ok (.clLen 3) ∧ decode ⟨.cItem, 19⟩ = .error .noSuchTSymbol := by decide
/-- R99: the C symbols select the symbol operations, mask 0x100. -/
theorem test_select_symbols :
    decode ⟨.cSymbol, 0x061⟩ = .ok (.lh5Lit 97) ∧ decode ⟨.cSymbol, 0x0FF⟩ = .ok (.lh5Lit 255) ∧
      decode ⟨.cSymbol, 0x100⟩ = .ok (.lh5Match 256) ∧ decode ⟨.cSymbol, 0x1FD⟩ = .ok (.lh5Match 509) ∧
      decode ⟨.cSymbol, 0x1FE⟩ = .error .noSuchCSymbol := by decide
/-- R110: the decision bit selects the token. -/
theorem test_select_tokens :
    decode ⟨.token, 1⟩ = .ok .lzssLit ∧ decode ⟨.token, 0⟩ = .ok .lzssMatch ∧
      decode ⟨.token, 2⟩ = .error .notADecisionBit := by decide
/-- R91, R93: the place in the grammar alone selects the others. -/
theorem test_select_places :
    decode ⟨.header, 0⟩ = .ok .lh5Hdr ∧ decode ⟨.blockCount, 0⟩ = .ok .lh5Blkcnt ∧
      decode ⟨.tSection, 0⟩ = .ok .lh5Tlen ∧ decode ⟨.lengthCode, 0⟩ = .ok .lcLen ∧
      decode ⟨.tSkip, 0⟩ = .ok .lcTskip ∧ decode ⟨.cSection, 0⟩ = .ok .lh5Clen ∧
      decode ⟨.pSection, 0⟩ = .ok .lh5Plen ∧ decode ⟨.symbol, 0⟩ = .ok .lh5Sym ∧
      decode ⟨.distance, 0⟩ = .ok .lh5Dist ∧ decode ⟨.control, 0⟩ = .ok .lzssCtrl := by decide

/-- 95_test_vectors.md P1: the listing assembles to the stream bytes. -/
theorem test_assemble_p1 :
    (assembleLh5
      [.hdr 4, .tlen 5 [0, 0, 1] (some 1) [1], .clen 260 [.zrun9 97, .len 2, .len 2, .len 2, .zrun9 159, .len 2],
        .plenConst 2, .lit 0x61#8, .lit 0x62#8, .lit 0x63#8, .backRef 6 3]).map BitVec.toNat =
      [0x00, 0x04, 0x28, 0x05, 0x30, 0x41, 0x37, 0x91, 0x70, 0x21, 0xB0] := by decide +kernel
/-- 95_test_vectors.md P3. -/
theorem test_assemble_p3 :
    (assembleLzss [.ctrl 0xE8#8, .lit 0x41#8, .lit 0x42#8, .lit 0x43#8, .backRef 0xFEE 6, .lit 0x44#8]).map
      BitVec.toNat = [0xE8, 0x41, 0x42, 0x43, 0xEE, 0xF3, 0x44] := by decide +kernel

/-! ## One step each (95_test_vectors.md) -/

/-- V40.5: zeros past the end. -/
theorem test_brPeek :
    onNext (exec (.brPeek 16) { withBytes [0xA5, 0x3C] with bitpos := 3 }) (fun s => (s.unitResult, s.bitpos)) =
      some (0x29E0, 3) := by decide +kernel
/-- V40.11. -/
theorem test_brPeek_straddle :
    onNext (exec (.brPeek 8) { withBytes [0xFF] with bitpos := 4 }) (fun s => s.unitResult) = some 0xF0 := by
  decide +kernel
/-- V40.8. -/
theorem test_brConsume :
    onNext (exec (.brConsume 5) { withBytes [0xA5, 0x3C] with bitpos := 15 }) (fun s => s.bitpos) = some 20 := by
  decide +kernel
/-- V40.6. -/
theorem test_brGet :
    onNext (exec (.brGet 5) { withBytes [0xA5, 0x3C] with bitpos := 3 }) (fun s => (s.unitResult, s.bitpos)) =
      some (5, 8) := by decide +kernel
/-- R131. -/
theorem test_brInit : onNext (exec .brInit { State.reset with bitpos := 9 }) (fun s => s.bitpos) = some 0 := by
  decide +kernel
/-- R135. -/
theorem test_brGet_wide : exec (.brGet 17) State.reset = .refused .readTooWide := rfl

/-- V41.1: the overflow tree of the P unit. -/
theorem test_htBuild_tree :
    onNext (exec (.htBuild .p) (withLens .p [1, 2, 3, 4, 5, 6, 7, 8, 9, 10, 11, 12, 13, 13])) (fun s =>
      (s.tabP.left.take 5, s.tabP.right.take 5, s.tabP.avail, s.tabP.table.drop 252)) =
      some ([some 8, some 9, some 10, some 11, some 12], [some 15, some 16, some 17, some 18, some 13], 19,
        [some 6, some 6, some 7, some 14]) := by decide +kernel
/-- V41.10: a multiple of 65536 is rejected. -/
theorem test_htBuild_overfull :
    onNext (exec (.htBuild .p) (withLens .p [1, 1, 1, 1])) faultOf = some (.fault, 1, 2, 131072) := by decide +kernel
/-- R165: the first value outside the alphabet. -/
theorem test_htConst_outside :
    onNext (exec (.htConst .p 14) State.reset) faultOf = some (.fault, 1, 5, 14) := by decide +kernel
theorem test_htConst :
    onNext (exec (.htConst .c 509) State.reset) (fun s => (s.tabC.constV, s.tabC.constSym)) = some (true, 509) := by
  decide +kernel
/-- V41.24 on the table of V41.1: twelve bits through the tree. -/
theorem test_htDecode_tree :
    (onNext (exec (.htBuild .p) { withLens .p [1, 2, 3, 4, 5, 6, 7, 8, 9, 10, 11, 12, 13, 13] with
        inMem := [(0, 0xFF#8), (1, 0xE8#8)], inLen := 2#32 })
      fun s => onNext (exec (.htDecode .p) s) fun t => (t.unitResult, t.bitpos)) = some (some (11, 12)) := by
  decide +kernel
/-- V41.28. -/
theorem test_htDecode_const :
    onNext (exec (.htDecode .p) (runSym 0 2 [] 1)) (fun s => (s.unitResult, s.bitpos)) = some (2, 0) := by
  decide +kernel

/-- R170, R39: the tables of reset give no symbol, and the decode goes on with a free one (log 23). -/
theorem test_htDecode_reset : onNext (exec (.htDecode .c) State.reset) (fun s => (s.freeIx, s.state)) =
    some (1, .idle) := by decide +kernel

/-- R220: the header of program P1. -/
theorem test_lh5Hdr :
    onNext (exec .lh5Hdr (runLh5 [0x00, 0x04, 0x28, 0x05, 0x30, 0x41, 0x37, 0x91, 0x70, 0x21, 0xB0] 9)) (fun s =>
      (s.bitpos, s.blockCount.toNat, s.phase, s.tabP.constV, s.tabP.constSym)) = some (76, 4, .streaming, true, 2) := by
  decide +kernel
/-- V42.26: a P count above the alphabet. -/
theorem test_lh5Hdr_count :
    onNext (exec .lh5Hdr (runLh5 [0, 1, 0, 0, 0, 0x0F] 4)) (fun s => (faultOf s, s.phase)) =
      some ((.fault, 1, 4, 15), .blockHeader) := by decide +kernel
/-- R193. -/
theorem test_lh5Blkcnt :
    onNext (exec .lh5Blkcnt (withBytes [0, 4])) (fun s => (s.blockCount.toNat, s.bitpos)) = some (4, 16) := by
  decide +kernel
/-- V42.10. -/
theorem test_lh5Tlen :
    onNext (exec .lh5Tlen (withBytes [0x28, 0x05, 0x20])) (fun s => (s.tabT.lens.take 6, s.bitpos, s.state)) =
      some ([0, 0, 1, 0, 1, 0], 19, .idle) := by decide +kernel
/-- V42.11: the run is read although the loop then ends. -/
theorem test_lh5Tlen_three :
    onNext (exec .lh5Tlen (withBytes [0x19, 0x4B])) (fun s => (s.tabT.lens.take 4, s.bitpos, s.state)) =
      some ([1, 2, 2, 0], 16, .idle) := by decide +kernel
/-- V42.3. -/
theorem test_lcLen :
    onNext (exec .lcLen (withBytes [0xFF, 0xF0])) (fun s => (s.unitResult, s.bitpos)) = some (16, 13) := by
  decide +kernel
/-- V42.5. -/
theorem test_lcLen_above :
    onNext (exec .lcLen (withBytes [0xFF, 0xF8])) (fun s => (faultOf s, s.bitpos)) = some ((.fault, 1, 1, 17), 0) := by
  decide +kernel
/-- R199. -/
theorem test_lcTskip :
    onNext (exec .lcTskip (withBytes [0x40])) (fun s => (s.unitResult, s.bitpos)) = some (1, 2) := by decide +kernel
/-- R212(b): CN = 2 with T single-symbol 3 gives two lengths 1. -/
theorem test_lh5Clen :
    onNext (exec .lh5Clen { withBytes [0x01, 0x00] with
        tabT := { State.reset.tabT with constV := true, constSym := 3 } }) (fun s =>
      (s.tabC.lens.take 3, s.bitpos, s.state)) = some ([1, 1, 0], 9, .idle) := by decide +kernel
/-- V42.25: a zero run past the alphabet. -/
theorem test_lh5Clen_run :
    onNext (exec .lh5Clen { withBytes [0x00, 0xFF, 0xC0] with
        tabT := { State.reset.tabT with constV := true, constSym := 2 } }) faultOf = some (.fault, 1, 6, 531) := by
  decide +kernel
/-- R207, at the last index. -/
theorem test_clZero1 :
    onNext (exec .clZero1 { State.reset with lenIndex := 509 }) (fun s => s.lenIndex) = some 510 := by decide +kernel
theorem test_clZero1_past :
    onNext (exec .clZero1 { State.reset with lenIndex := 510 }) faultOf = some (.fault, 1, 6, 511) := by decide +kernel
/-- R208: the field 0101 is 8 zeros. -/
theorem test_clZrun4 :
    onNext (exec .clZrun4 (withBytes [0x50])) (fun s => (s.lenIndex, s.bitpos)) = some (8, 4) := by decide +kernel
/-- R209: the field 001001101 is 97 zeros. -/
theorem test_clZrun9 :
    onNext (exec .clZrun9 (withBytes [0x26, 0x80])) (fun s => (s.lenIndex, s.bitpos)) = some (97, 9) := by
  decide +kernel
/-- R210: T symbol 4 stores length 2. -/
theorem test_clLen :
    onNext (exec (.clLen 4) { State.reset with lenIndex := 1 }) (fun s => (s.tabC.lens.take 3, s.lenIndex)) =
      some ([0, 2, 0], 2) := by decide +kernel
theorem test_clLen_ill_formed : exec (.clLen 19) State.reset = .refused .noSuchOperation := rfl
/-- V42.13. -/
theorem test_lh5Plen :
    onNext (exec .lh5Plen (withBytes [0x22, 0x40])) (fun s => (s.tabP.lens.take 3, s.bitpos, s.state)) =
      some ([1, 1, 0], 10, .idle) := by decide +kernel
/-- V42.14. -/
theorem test_lh5Plen_const :
    onNext (exec .lh5Plen (withBytes [0x02])) (fun s => (s.tabP.constV, s.tabP.constSym, s.bitpos)) =
      some (true, 2, 8) := by decide +kernel

/-- R232's example: the counter reaches 0. -/
theorem test_lh5Sym :
    onNext (exec .lh5Sym (runSym 0x41 0 [] 4)) (fun s => (outBytes s, s.blockCount.toNat, s.phase)) =
      some ([0x41], 0, .blockHeader) := by decide +kernel
/-- R193: a counter of 0 wraps to 65535. -/
theorem test_lh5Sym_wraps :
    onNext (exec .lh5Sym { runSym 0x41 0 [] 4 with blockCount := 0#16 }) (fun s => (s.blockCount.toNat, s.phase)) =
      some (65535, .streaming) := by decide +kernel
/-- R234's example. -/
theorem test_lh5Lit :
    onNext (exec (.lh5Lit 97) (runSym 0 0 [] 4)) (fun s => (outBytes s, s.outCount.toNat)) = some ([0x61], 1) := by
  decide +kernel
/-- R238's example: length 6, offset 3 over "abc". -/
theorem test_lh5Match :
    onNext (exec (.lh5Match 259) (withOut (runSym 0 2 [0x00] 20) [0x61, 0x62, 0x63])) (fun s =>
      (outBytes s, s.outCount.toNat, s.bitpos)) =
      some ([0x61, 0x62, 0x63, 0x61, 0x62, 0x63, 0x61, 0x62, 0x63], 9, 1) := by decide +kernel
/-- V43.16: a match before any output. -/
theorem test_lh5Match_before :
    onNext (exec (.lh5Match 256) (runSym 0 0 [] 4)) (fun s => (faultOf s, outBytes s)) =
      some ((.fault, 2, 0, 1), []) := by decide +kernel
/-- R239: p = 13 with twelve ones. -/
theorem test_lh5Dist :
    onNext (exec .lh5Dist (runSym 0 13 [0xFF, 0xF0] 4)) (fun s => (s.unitResult, s.bitpos)) = some (8191, 12) := by
  decide +kernel
/-- R239: p = 1 has no extra bits. -/
theorem test_lh5Dist_one :
    onNext (exec .lh5Dist (runSym 0 1 [0xFF] 4)) (fun s => (s.unitResult, s.bitpos)) = some (1, 0) := by decide +kernel

/-- R274's example. -/
theorem test_lzssCtrl :
    onNext (exec .lzssCtrl (runLzss [0x80] 4)) (fun s => (s.ctrl.toNat, s.ctrlLeft.toNat, s.inPos.toNat)) =
      some (0x80, 8, 1) := by decide +kernel
/-- V44.4d. -/
theorem test_lzssCtrl_exhausted :
    onNext (exec .lzssCtrl (runLzss [] 1)) faultOf = some (.fault, 3, 1, 0) := by decide +kernel
/-- R277's example. -/
theorem test_lzssLit :
    onNext (exec .lzssLit (runToken 0x80#8 [0x41] 4)) (fun s =>
      (outBytes s, s.ringMem.map (fun cell => (cell.1, cell.2.toNat)), s.ringW.toNat, s.ctrl.toNat,
        s.ctrlLeft.toNat)) = some ([0x41], [(0xFEE, 0x41)], 0xFEF, 0, 7) := by decide +kernel
/-- V44.10: the pair 00 00 over a ring filled with 0x20. -/
theorem test_lzssMatch :
    onNext (exec .lzssMatch { runToken 0#8 [0x00, 0x00] 3 with
        params := { Params.default with ringFill := some 0x20#8 } }) (fun s =>
      (outBytes s, s.ringW.toNat, s.inPos.toNat)) = some ([0x20, 0x20, 0x20], 0xFF1, 2) := by decide +kernel
/-- V44.9: a ring cell never written. -/
theorem test_lzssMatch_unwritten :
    onNext (exec .lzssMatch (runToken 0#8 [0x00, 0x00] 3)) faultOf = some (.fault, 6, 0, 0) := by decide +kernel

/-- V45.3. -/
theorem test_cmdStart_reserved :
    onNext (exec .cmdStart { State.reset with codec := 4#3 }) faultOf = some (.fault, 4, 0, 4) := by decide +kernel
theorem test_cmdStart :
    onNext (exec .cmdStart { State.reset with codec := 5#3, state := .done, outCount := 7#32, bitpos := 3 }) (fun s =>
      (s.state, s.outCount.toNat, s.bitpos, s.ringW.toNat)) = some (.run, 0, 0, 0xFEE) := by decide +kernel
/-- V45.9. -/
theorem test_cmdReset :
    onNext (exec .cmdReset (runLh5 [1] 4)) (fun s => (s.state, s.codec.toNat, s.inLen.toNat, s.inMem)) =
      some (.idle, 0, 0, [(0, 1#8)]) := by decide +kernel
/-- V45.6, V45.7. -/
theorem test_cmdAbort : onNext (exec .cmdAbort (runLh5 [1] 4)) (fun s => s.state) = some .idle := by decide +kernel
theorem test_cmdAbort_done :
    onNext (exec .cmdAbort { State.reset with state := .done }) (fun s => s.state) = some .done := by decide +kernel

/-- R231 line 1, V43.11: EXPANDED_SIZE = 0 is done at the first step, nothing read. -/
theorem test_step_finish :
    onNext (step (runLh5 [0xFF] 0)) (fun s => (s.state, s.bitpos)) = some (.done, 0) := by decide +kernel
/-- R271 line 3: a decision bit 1 is a literal. -/
theorem test_step_literal :
    onNext (step (runToken 0x80#8 [0x41] 4)) (fun s => (outBytes s, s.state)) = some ([0x41], .run) := by decide +kernel
/-- R314, V45.5: CMD.START in RUN changes nothing but the host's list. -/
theorem test_step_start_ignored :
    onNext (step { runLzss [0x80] 4 with host := [.command .start] }) (fun s => (s.state, s.inPos.toNat, s.host)) =
      some (.run, 0, []) := by decide +kernel
/-- R318: CODEC written outside RUN, and ignored in RUN. -/
theorem test_step_write_codec :
    onNext (step { State.reset with host := [.writeCodec 5#3] }) (fun s => s.codec.toNat) = some 5 ∧
      onNext (step { runLh5 [] 4 with host := [.writeCodec 3#3] }) (fun s => s.codec.toNat) = some 5 := by decide +kernel
/-- R318: OUT is defined below OUT_COUNT in DONE, after the host has lowered EXPANDED_SIZE too. -/
theorem test_step_read_out :
    onNext (step { withOut { runLh5 [] 1 with state := .done } [7, 8] with host := [.read (.outByte 1#32)] }) (fun s =>
      (s.hostData, s.freeIx)) = some (8, 0) := by decide +kernel
/-- R318, 93_implementation_defined.md U7: a host write to OUT is refused. -/
theorem test_step_write_out :
    step { State.reset with host := [.writeOut 0#32 1#8] } = .refused .hostWroteOut := rfl
/-- The words of the opcode table as the first step: a decision bit, a C symbol, a T symbol, a length code. -/
theorem test_fetch_words :
    onNext (step (State.reset.withFetchWord 8 1)) (fun s => s.outCount.toNat) = some 1 ∧
      onNext (step (State.reset.withFetchWord 16 65)) outBytes = some [65] ∧
      onNext (step (State.reset.withFetchWord 16 256)) faultOf = some (.fault, 2, 0, 1) ∧
      onNext (step (State.reset.withFetchWord 8 2)) (fun s => s.bitpos) = some 44 ∧
      decodeTableWord 8 254 = some .lcLen := by decide +kernel

/-! ## Witnesses: states and operands that meet the hypotheses of each obligation, at boundary values -/

/-- The decidable form of State.reads. -/
def readsBits (s : State) (bits : List Bool) : Bool :=
  (List.range bits.length).all fun i => s.streamBit (s.bitpos + i) == bits.getD i false

theorem reads_of_bits {s : State} {bits : List Bool} (h : readsBits s bits = true) : s.reads bits := by
  intro i hi
  simp only [readsBits, List.all_eq_true, List.mem_range, beq_iff_eq] at h
  exact h i hi

/-- The lengths of program P6's C table and of R164's P table, which use the tree. -/
def treeLens : List Nat := [1, 2, 3, 4, 5, 6, 7, 8, 9, 10, 11, 12, 13, 13]

/-- A complete T length set with the longest code, 16. -/
def longLens : List Nat := [1, 2, 3, 4, 5, 6, 7, 8, 9, 10, 11, 12, 13, 14, 15, 16, 16]

theorem wit_BrPeekAndGetReturnStreamBits :
    16 ≤ 16 ∧ 16 < 17 ∧ 8 * (withBytes [0xFF]).inLen.toNat ≤ ({ withBytes [0xFF] with bitpos := 8 } : State).bitpos := by
  decide +kernel

theorem wit_BrInitAndConsumeMoveCursor : 0 ≤ 16 ∧ 16 ≤ 16 := by decide

/-- The last symbol of P, all earlier lengths 16. -/
theorem wit_HtBuildRejectsBadLengths_length :
    16 < ((withLens .p (List.replicate 13 16 ++ [17])).unit .p).lens.getD 13 0 ∧
      ∀ j, j < 13 → ((withLens .p (List.replicate 13 16 ++ [17])).unit .p).lens.getD j 0 ≤ 16 := by decide +kernel

/-- V41.10: 131072. -/
theorem wit_HtBuildRejectsBadLengths_weight :
    (∀ l ∈ ((withLens .p [1, 1, 1, 1]).unit .p).lens, l ≤ 16) ∧ ((withLens .p [1, 1, 1, 1]).unit .p).weight ≠ 65536 := by
  decide +kernel

/-- Codes up to the full eight bits of the flat table. -/
theorem wit_HtBuildFillsFlatTable :
    ((withLens .p [1, 2, 3, 4, 5, 6, 7, 8, 8]).unit .p).len.length = Alphabet.p.size ∧
      (∀ l ∈ ((withLens .p [1, 2, 3, 4, 5, 6, 7, 8, 8]).unit .p).lens, l ≤ Alphabet.p.tableBits) ∧
      ((withLens .p [1, 2, 3, 4, 5, 6, 7, 8, 8]).unit .p).weight = 65536 := by decide +kernel

theorem wit_HtBuildAcceptsCompleteLengths :
    ((withLens .t longLens).unit .t).len.length = Alphabet.t.size ∧ (∀ l ∈ ((withLens .t longLens).unit .t).lens, l ≤ 16) ∧
      ((withLens .t longLens).unit .t).weight = 65536 := by decide +kernel

/-- And the state BUILD leaves, which is a state r with the same unit. -/
theorem wit_HtBuildDecodesCanonicalCode :
    ((withLens .p treeLens).unit .p).len.length = Alphabet.p.size ∧
      (∀ l ∈ ((withLens .p treeLens).unit .p).lens, l ≤ 16) ∧ ((withLens .p treeLens).unit .p).weight = 65536 := by
  decide +kernel

theorem wit_HtConstSetsOrRejects : 13 < Alphabet.p.size ∧ Alphabet.p.size ≤ 14 := by decide

theorem wit_HtDecodeReadsConstEntryOrNode_const : ((runSym 509 13 [] 1).unit .c).constV = true := by decide +kernel

/-- A unit P whose entries all are one value, its right entries 5. -/
def onEntry (v : Nat) : State :=
  { withBytes [0x00, 0x80] with
    tabP := { State.reset.tabP with table := List.replicate 256 (some v), right := List.replicate 13 (some 5) } }

theorem wit_HtDecodeReadsConstEntryOrNode_flat :
    ((onEntry 13).unit .p).constV = false ∧ 13 < Alphabet.p.size ∧
      ((onEntry 13).unit .p).table.getD ((onEntry 13).fieldValue 16 / 2 ^ (16 - Alphabet.p.tableBits)) none = some 13 := by
  rw [← State.peek_eq_fieldValue]
  decide +kernel

theorem wit_HtDecodeReadsConstEntryOrNode_node :
    ((onEntry 26).unit .p).constV = false ∧ 5 < Alphabet.p.size ∧ Alphabet.p.size ≤ 26 ∧
      ((onEntry 26).unit .p).table.getD ((onEntry 26).fieldValue 16 / 2 ^ (16 - Alphabet.p.tableBits)) none = some 26 ∧
      (if (onEntry 26).streamBit ((onEntry 26).bitpos + Alphabet.p.tableBits) then ((onEntry 26).unit .p).right
        else ((onEntry 26).unit .p).left).getD (26 - Alphabet.p.size) none = some 5 := by
  rw [← State.peek_eq_fieldValue]
  decide +kernel

/-- The tables of reset: the window reads NIL. -/
theorem wit_HtDecodeReadsConstEntryOrNode_none :
    (State.reset.unit .t).constV = false ∧ (State.reset.unit .t).symbolAt .t (State.reset.fieldValue 16) = none := by
  rw [← State.peek_eq_fieldValue]
  decide +kernel

/-- The decidable form of State.readsLongCode. -/
def readsLongBits (s : State) (before : List Bool) (j : Nat) : Bool :=
  readsBits s (before ++ List.replicate (13 + j) true) &&
    (decide (3 ≤ j) || !s.streamBit (s.bitpos + before.length + (13 + j)))

theorem readsLong_of_bits {s : State} {before : List Bool} {j : Nat} (h : readsLongBits s before j = true) :
    s.readsLongCode before j := by
  simp only [readsLongBits, Bool.and_eq_true, Bool.or_eq_true, decide_eq_true_eq, Bool.not_eq_true'] at h
  exact ⟨reads_of_bits h.1, fun hj => h.2.resolve_left (by omega)⟩

/-- The longest and the shortest code, sixteen ones, and thirteen ones and a 0. -/
theorem wit_LengthFieldsAreReadOrRejected :
    (16 ≤ 16 ∧ (withBytes [0xFF, 0xF0]).reads (lengthCodeBits 16)) ∧
      (0 ≤ 16 ∧ (withBytes [0x1F]).reads (lengthCodeBits 0)) ∧
      (3 ≤ 3 ∧ (withBytes [0xFF, 0xFF]).readsLongCode [] 3) ∧
      (0 ≤ 3 ∧ (withBytes [0xFF, 0xF8]).readsLongCode [] 0) :=
  ⟨⟨by decide, reads_of_bits (by decide +kernel)⟩, ⟨by decide, reads_of_bits (by decide +kernel)⟩,
    ⟨by decide, readsLong_of_bits (by decide +kernel)⟩, ⟨by decide, readsLong_of_bits (by decide +kernel)⟩⟩

/-- The last symbol of each alphabet, and the first value outside it. -/
theorem wit_SectionWithCountZero (x : Alphabet) :
    (x.size - 1 < 2 ^ x.countBits ∧ x.size - 1 < x.size ∧
      (withBits (bitsOf x.countBits 0 ++ bitsOf x.countBits (x.size - 1))).reads
        (bitsOf x.countBits 0 ++ bitsOf x.countBits (x.size - 1))) ∧
    (x.size < 2 ^ x.countBits ∧ x.size ≤ x.size ∧
      (withBits (bitsOf x.countBits 0 ++ bitsOf x.countBits x.size)).reads
        (bitsOf x.countBits 0 ++ bitsOf x.countBits x.size)) := by
  cases x <;>
    exact ⟨⟨by decide, by decide, reads_of_bits (by decide +kernel)⟩,
      ⟨by decide, by decide, reads_of_bits (by decide +kernel)⟩⟩

theorem wit_SectionCountAboveAlphabet (x : Alphabet) :
    x.size < x.size + 1 ∧ x.size + 1 < 2 ^ x.countBits ∧
      (withBits (bitsOf x.countBits (x.size + 1))).reads (bitsOf x.countBits (x.size + 1)) := by
  cases x <;> exact ⟨by decide, by decide, reads_of_bits (by decide +kernel)⟩

/-- Two codes, and the largest length in one. -/
theorem wit_TlenReadsLengthCodes_short :
    (2 ≤ 2 ∧ (∀ l ∈ [1, 1], l ≤ 16) ∧
      (withBits (bitsOf 5 2 ++ [1, 1].flatMap lengthCodeBits)).reads (bitsOf 5 2 ++ [1, 1].flatMap lengthCodeBits)) ∧
    ((∀ l ∈ [16], l ≤ 16) ∧
      (withBits (bitsOf 5 1 ++ [16].flatMap lengthCodeBits)).reads (bitsOf 5 1 ++ [16].flatMap lengthCodeBits)) :=
  ⟨⟨by decide, by decide, reads_of_bits (by decide +kernel)⟩, ⟨by decide, reads_of_bits (by decide +kernel)⟩⟩

/-- The stream of a T section with a run. -/
def tBits (n : Nat) (a : List Nat) (z : Nat) (b : List Nat) : List Bool :=
  bitsOf 5 n ++ a.flatMap lengthCodeBits ++ bitsOf 2 z ++ b.flatMap lengthCodeBits

/-- V42.11 (n = 3, z = 3, nothing after), V42.10 (n = 5, z = 1), and the largest count with no run. -/
theorem wit_TlenReadsLengthCodes_run :
    ((3 ≤ 3 ∧ 3 ≤ 19 ∧ ([] : List Nat).length = 3 - (3 + 3) ∧ (∀ l ∈ [1, 2, 2] ++ ([] : List Nat), l ≤ 16) ∧
      (withBytes [0x19, 0x4B]).reads (tBits 3 [1, 2, 2] 3 []))) ∧
    (3 ≤ 5 ∧ 5 ≤ 19 ∧ [1].length = 5 - (3 + 1) ∧ (∀ l ∈ [0, 0, 1] ++ [1], l ≤ 16) ∧
      (withBytes [0x28, 0x05, 0x20]).reads (tBits 5 [0, 0, 1] 1 [1])) ∧
    ((List.replicate 16 4).length = 19 - (3 + 0) ∧ (∀ l ∈ [0, 0, 0] ++ List.replicate 16 4, l ≤ 16) ∧
      (withBits (tBits 19 [0, 0, 0] 0 (List.replicate 16 4))).reads (tBits 19 [0, 0, 0] 0 (List.replicate 16 4))) :=
  ⟨⟨by decide, by decide, by decide, by decide, reads_of_bits (by decide +kernel)⟩,
    ⟨by decide, by decide, by decide, by decide, reads_of_bits (by decide +kernel)⟩,
    ⟨by decide, by decide, reads_of_bits (by decide +kernel)⟩⟩

/-- V42.5 as the first code of T and after two legal ones; after the escape and its longest run; and the last code of P. -/
theorem wit_SectionsRejectLongLengthCode :
    (([] : List Nat).length < 1 ∧ (withBits (bitsOf 5 1 ++ List.replicate 13 true)).readsLongCode (bitsOf 5 1) 0) ∧
    ([16, 0].length ≤ 2 ∧ [16, 0].length < 19 ∧ (∀ l ∈ [16, 0], l ≤ 16) ∧
      (withBits (bitsOf 5 19 ++ [16, 0].flatMap lengthCodeBits ++ List.replicate 16 true)).readsLongCode
        (bitsOf 5 19 ++ [16, 0].flatMap lengthCodeBits) 3) ∧
    ([0, 0, 1].length = 3 ∧ 3 + 3 + ([] : List Nat).length < 7 ∧ (∀ l ∈ [0, 0, 1] ++ ([] : List Nat), l ≤ 16) ∧
      (withBits (tBits 7 [0, 0, 1] 3 [] ++ List.replicate 13 true)).readsLongCode (tBits 7 [0, 0, 1] 3 []) 0) ∧
    ((List.replicate 13 4).length < 14 ∧ (∀ l ∈ List.replicate 13 4, l ≤ 16) ∧
      (withBits (bitsOf 4 14 ++ (List.replicate 13 4).flatMap lengthCodeBits ++ List.replicate 16 true)).readsLongCode
        (bitsOf 4 14 ++ (List.replicate 13 4).flatMap lengthCodeBits) 3) :=
  ⟨⟨by decide, readsLong_of_bits (by decide +kernel)⟩,
    ⟨by decide, by decide, by decide, readsLong_of_bits (by decide +kernel)⟩,
    ⟨by decide, by decide, by decide, readsLong_of_bits (by decide +kernel)⟩,
    ⟨by decide, by decide, readsLong_of_bits (by decide +kernel)⟩⟩

/-- Each run within 510, at its boundary, and past it; and a length at the last index. -/
theorem wit_ItemsAdvanceIndexOrFault :
    509 + 1 ≤ 510 ∧ 510 < 510 + 1 ∧
      495 + ((withBytes [0xC0]).fieldValue 4 + 3) ≤ 510 ∧ 510 < 496 + ((withBytes [0xC0]).fieldValue 4 + 3) ∧
      490 + ((withBytes []).fieldValue 9 + 20) ≤ 510 ∧ 510 < 0 + ((withBytes [0xFF, 0x80]).fieldValue 9 + 20) ∧
      3 ≤ 3 ∧ 18 ≤ 18 ∧ ({ State.reset with lenIndex := 509 } : State).lenIndex < 510 := by
  simp only [← State.peek_eq_fieldValue]
  decide +kernel

/-- The T table of R196's example, symbol 2 = 0 and symbol 4 = 1. -/
def tLens : List Nat := [0, 0, 1, 0, 1] ++ List.replicate 14 0

/-- The C section of R213 over that table. -/
def r213Items : List ClenItem := [.zrun9 97, .len 2, .len 2, .len 2, .zrun9 159, .len 2]

/-- R213's state: T built, then CN = 260 and the items. -/
def r213State : State :=
  { withBits (bitsOf 9 260 ++ r213Items.flatMap (asmItem (some tLens))) with
    tabT := { State.reset.tabT with
      len := tLens.map (BitVec.ofNat 5)
      table := List.replicate 128 (some 2) ++ List.replicate 128 (some 4) } }

theorem wit_ClenReadsItems_decodes (v w : Nat) (hv : v < 19) (hw : w < 2 ^ 16) (hl : 0 < tLens.getD v 0)
    (hc : (bitsOf 16 w).take (tLens.getD v 0) = codeBits tLens v) : r213State.tabT.symbolAt .t w = some v := by
  have top : (bitsOf 16 w).take 1 = [w.testBit 15] := rfl
  have entries : ∀ j, j < 256 →
      r213State.tabT.table.getD j none = some (if Nat.testBit j 7 then 4 else 2) := by decide +kernel
  have bit : Nat.testBit (w / 256) 7 = w.testBit 15 := by
    rw [show w / 256 = w / 2 ^ 8 from rfl, Nat.testBit_div_two_pow]
  have flat : r213State.tabT.symbolAt .t w = some (if w.testBit 15 then 4 else 2) := by
    have e := entries (w / 256) (by omega)
    rw [bit] at e
    have d : w / 2 ^ (16 - Alphabet.t.tableBits) = w / 256 := rfl
    simp only [TableUnit.symbolAt, TableUnit.readCell, d, e]
    cases w.testBit 15 <;> rfl
  rw [flat]
  interval_cases v <;> first
    | exact absurd hl (by decide)
    | (rw [show tLens.getD _ 0 = 1 from rfl, top] at hc
       cases hb : w.testBit 15 <;> rw [hb] at hc <;> first | rfl | exact absurd hc (by decide))

theorem wit_ClenReadsItems_table (s : State) (h : s.tabT = r213State.tabT) : s.decodesT tLens := by
  refine ⟨by rw [h]; rfl, by rw [h]; decide +kernel, fun v w hv hw hl hc => ?_, fun v => ?_⟩
  · rw [h]
    exact wit_ClenReadsItems_decodes v w hv hw hl hc
  · by_cases hv : v < 19
    · interval_cases v <;> decide
    · rw [List.getD_eq_default _ _ (by simpa [tLens] using hv)]
      decide

theorem wit_ClenReadsItems :
    1 ≤ 260 ∧ 260 ≤ 510 ∧ r213State.decodesT tLens ∧ (∀ item ∈ r213Items, item.codable tLens) ∧
      (∀ k, k < r213Items.length → ((r213Items.take k).flatMap itemLens).length < 260) ∧
      260 ≤ (r213Items.flatMap itemLens).length ∧ (r213Items.flatMap itemLens).length ≤ 510 ∧
      r213State.reads (bitsOf 9 260 ++ r213Items.flatMap (asmItem (some tLens))) := by
  exact ⟨by decide, by decide, wit_ClenReadsItems_table _ rfl, by simp [r213Items, tLens, ClenItem.codable],
    by decide +kernel, by decide +kernel, by decide +kernel, reads_of_bits (by decide +kernel)⟩

/-- A C section over the T table of R213. -/
def overT (bits : List Bool) : State := { withBits bits with tabT := r213State.tabT }

/-- A single-symbol T table. -/
def singleT (c : Nat) (bits : List Bool) : State :=
  { withBits bits with tabT := { State.reset.tabT with constV := true, constSym := c } }

/-- A run that reaches 511, the first index outside; V42.25, one run of 531; and runs of 18, the last of which passes
510. -/
theorem wit_ClenRejectsRunPastAlphabet :
    ((∀ item ∈ [ClenItem.zrun9 490, .zrun9 21], item.codable tLens) ∧
      (∀ k, k ≤ 1 → (([ClenItem.zrun9 490].take k).flatMap itemLens).length < 510) ∧
      (([ClenItem.zrun9 490] ++ [ClenItem.zrun9 21]).flatMap itemLens).length = 511 ∧
      (overT (bitsOf 9 510 ++ [ClenItem.zrun9 490, .zrun9 21].flatMap (asmItem (some tLens)))).decodesT tLens ∧
      (overT (bitsOf 9 510 ++ [ClenItem.zrun9 490, .zrun9 21].flatMap (asmItem (some tLens)))).reads
        (bitsOf 9 510 ++ [ClenItem.zrun9 490, .zrun9 21].flatMap (asmItem (some tLens)))) ∧
    (510 < (([] ++ [511]).map (zeroRunOf 2)).sum ∧ (∀ g ∈ [511], g < 2 ^ zeroRunBits 2) ∧
      (singleT 2 (bitsOf 9 1 ++ [511].flatMap (bitsOf (zeroRunBits 2)))).reads
        (bitsOf 9 1 ++ [511].flatMap (bitsOf (zeroRunBits 2)))) ∧
    (510 < ((List.replicate 28 15 ++ [15]).map (zeroRunOf 1)).sum ∧
      (∀ g ∈ List.replicate 28 15 ++ [15], g < 2 ^ zeroRunBits 1) ∧
      (∀ k, k ≤ 28 → (((List.replicate 28 15).take k).map (zeroRunOf 1)).sum < 505) ∧
      (singleT 1 (bitsOf 9 505 ++ (List.replicate 29 15).flatMap (bitsOf (zeroRunBits 1)))).reads
        (bitsOf 9 505 ++ (List.replicate 28 15 ++ [15]).flatMap (bitsOf (zeroRunBits 1)))) := by
  refine ⟨⟨by simp [tLens, ClenItem.codable], by decide +kernel, by decide +kernel, wit_ClenReadsItems_table _ rfl,
    reads_of_bits (by decide +kernel)⟩, ⟨by decide, by decide, reads_of_bits (by decide +kernel)⟩,
    ⟨by decide +kernel, by decide +kernel, by decide +kernel, reads_of_bits (by decide +kernel)⟩⟩

/-- R212(b)'s example, and the largest symbol and count; and the single zeros, the short runs and the long runs that end
at exactly 510. -/
theorem wit_ClenWithSingleSymbolT :
    (singleT 3 (bitsOf 9 2)).reads (bitsOf 9 2) ∧ (singleT 18 (bitsOf 9 510)).reads (bitsOf 9 510) ∧
    (((List.replicate 510 0).map (zeroRunOf 0)).sum = 510 ∧ (∀ f ∈ List.replicate 510 0, f < 2 ^ zeroRunBits 0) ∧
      (singleT 0 (bitsOf 9 510)).reads (bitsOf 9 510 ++ (List.replicate 510 0).flatMap (bitsOf (zeroRunBits 0)))) ∧
    (((List.replicate 170 0).map (zeroRunOf 1)).sum = 510 ∧ (∀ f ∈ List.replicate 170 0, f < 2 ^ zeroRunBits 1) ∧
      (singleT 1 (bitsOf 9 510)).reads (bitsOf 9 510 ++ (List.replicate 170 0).flatMap (bitsOf (zeroRunBits 1)))) ∧
    ([490].map (zeroRunOf 2)).sum = 510 ∧ (∀ f ∈ [490], f < 2 ^ zeroRunBits 2) ∧
      (singleT 2 (bitsOf 9 510 ++ bitsOf 9 490)).reads (bitsOf 9 510 ++ [490].flatMap (bitsOf (zeroRunBits 2))) :=
  ⟨reads_of_bits (by decide +kernel), reads_of_bits (by decide +kernel),
    ⟨by decide +kernel, by decide +kernel, reads_of_bits (by decide +kernel)⟩,
    ⟨by decide +kernel, by decide +kernel, reads_of_bits (by decide +kernel)⟩, by decide, by decide,
    reads_of_bits (by decide +kernel)⟩

/-- V42.13, and all fourteen codes. -/
theorem wit_PlenReadsLengthCodes :
    (1 ≤ [1, 1].length ∧ [1, 1].length ≤ 14 ∧ (∀ l ∈ [1, 1], l ≤ 16) ∧
      (withBytes [0x22, 0x40]).reads (bitsOf 4 [1, 1].length ++ [1, 1].flatMap lengthCodeBits)) ∧
    (treeLens.length ≤ 14 ∧ (∀ l ∈ treeLens, l ≤ 16) ∧
      (withBits (bitsOf 4 treeLens.length ++ treeLens.flatMap lengthCodeBits)).reads
        (bitsOf 4 treeLens.length ++ treeLens.flatMap lengthCodeBits)) :=
  ⟨⟨by decide, by decide, by decide, reads_of_bits (by decide +kernel)⟩,
    ⟨by decide, by decide, reads_of_bits (by decide +kernel)⟩⟩

/-- The end state of the parts BLKCNT and T of a header. -/
def afterT (bytes : List Nat) : State :=
  match exec .lh5Tlen (blockCountPart (runLh5 bytes 4)) with
  | .next s => s
  | .fault _ => State.reset
  | .refused _ => State.reset

/-- A header of zero bits goes through all parts; V42.20, V42.24 and V42.26 end in T, C and P. -/
theorem wit_HdrRunsItsParts :
    (runLh5 [] 4).state = .run ∧ (∃ s1, exec .lh5Blkcnt (runLh5 [] 4) = .next s1 ∧ decide (s1.state = .run) = true) ∧
      onNext (exec .lh5Tlen (blockCountPart (runLh5 [0, 1, 0xA0] 4))) (fun s => s.state) = some .fault ∧
      (afterT []).state = .run ∧ onNext (exec .lh5Clen (afterT [0, 1, 0, 0x3F, 0xE0])) (fun s => s.state) = some .fault ∧
      onNext (exec .lh5Clen (afterT [])) (fun s => onNext (exec .lh5Plen s) fun t => (s.state, t.state)) =
        some (some (.run, .run)) ∧
      onNext (exec .lh5Clen (afterT [0, 1, 0, 0, 0, 0x0F])) (fun s => onNext (exec .lh5Plen s) fun t =>
        (s.state, t.state)) = some (some (.run, .fault)) :=
  ⟨rfl, exists_next _ (by decide +kernel), by decide +kernel, by decide +kernel, by decide +kernel, by decide +kernel,
    by decide +kernel⟩

/-- The whole stream past the end of IN. -/
theorem wit_ZeroHeaderCompletes : (runLh5 [] 5).reads (List.replicate 52 false) := reads_of_bits (by decide +kernel)

theorem wit_LitAppendsByte : 255 < 256 ∧ (runSym 0 0 [] 1).outCount < (runSym 0 0 [] 1).expandedSize := by
  decide +kernel

/-- A single-symbol P table, and a built one with symbol 13 in thirteen bits. -/
theorem wit_DistReadsExtraBits :
    (runSym 0 13 [0xFF, 0xF0] 4).codeAt .p 13 0 ∧
      ({ onEntry 13 with tabP := { (onEntry 13).tabP with len := List.replicate 14 13#5 } } : State).codeAt .p 13 13 :=
  ⟨.inl ⟨rfl, rfl, rfl⟩, .inr ⟨rfl, by rw [← State.peek_eq_fieldValue]; decide +kernel, rfl⟩⟩

/-- No output yet, and an offset one above OUT_COUNT. -/
theorem wit_MatchBeforeStartFaults :
    ((runSym 0 0 [] 4).codeAt .p 0 0 ∧ (runSym 0 0 [] 4).outCount.toNat < (runSym 0 0 [] 4).distanceAt 0 0 + 1) ∧
    ((withOut (runSym 0 1 [] 4) [7]).codeAt .p 1 0 ∧
      (withOut (runSym 0 1 [] 4) [7]).outCount.toNat < (withOut (runSym 0 1 [] 4) [7]).distanceAt 1 0 + 1) :=
  ⟨⟨.inl ⟨rfl, rfl, rfl⟩, by decide +kernel⟩, ⟨.inl ⟨rfl, rfl, rfl⟩, by decide +kernel⟩⟩

/-- An offset equal to OUT_COUNT, with room and at the very end of the output. -/
theorem wit_MatchCopiesBackReference (size : Nat) (h : size = 2 ∨ size = 20) :
    (withOut (runSym 0 1 [] size) [7, 8]).codeAt .p 1 0 ∧
      (withOut (runSym 0 1 [] size) [7, 8]).distanceAt 1 0 + 1 ≤ (withOut (runSym 0 1 [] size) [7, 8]).outCount.toNat ∧
      (withOut (runSym 0 1 [] size) [7, 8]).outCount ≤ (withOut (runSym 0 1 [] size) [7, 8]).expandedSize ∧
      ∀ a, a < (withOut (runSym 0 1 [] size) [7, 8]).outCount.toNat →
        (withOut (runSym 0 1 [] size) [7, 8]).memRead .out a ≠ none := by
  rcases h with rfl | rfl <;>
    exact ⟨.inl ⟨rfl, rfl, rfl⟩, by decide +kernel, by decide +kernel, by decide +kernel⟩

/-- A literal, a match that completes and a match that raises. -/
theorem wit_SymRunsLiteralOrMatch :
    ((runSym 255 0 [] 1).state ≠ .fault ∧ (runSym 255 0 [] 1).codeAt .c 255 0 ∧
      (runSym 255 0 [] 1).outCount < (runSym 255 0 [] 1).expandedSize) ∧
    ((runSym 509 0 [] 4).codeAt .c 509 0 ∧
      ∃ q, exec (.lh5Match 509) (withOut (runSym 509 0 [] 4) [7]) = .next q ∧ decide (q.state ≠ .fault) = true) ∧
    ∃ q, exec (.lh5Match 256) (runSym 256 0 [] 4) = .next q ∧ decide (q.state = .fault) = true :=
  ⟨⟨by decide, .inl ⟨rfl, rfl, rfl⟩, by decide +kernel⟩,
    ⟨.inl ⟨rfl, rfl, rfl⟩, exists_next _ (by decide +kernel)⟩, exists_next _ (by decide +kernel)⟩

theorem wit_CtrlLoadsControlByte :
    (runLzss [0x80] 4).inPos < (runLzss [0x80] 4).inLen ∧
      (runLzss [0x80] 4).memRead .inn (runLzss [0x80] 4).inPos.toNat = some 0x80#8 := by decide +kernel

theorem canonical_of_spaces {s : State} (h : (Memory.wf (some 0#8) s.inMem && Memory.wf none s.outMem &&
    Memory.wf s.params.ringFill s.ringMem) = true) : s.memoriesCanonical := by
  simp only [Bool.and_eq_true] at h
  intro p
  cases p
  · exact h.1.1
  · exact h.1.2
  · exact h.2

theorem wit_LzssLitAppendsByte :
    (runToken 0x80#8 [0x41] 4).memoriesCanonical ∧ (runToken 0x80#8 [0x41] 4).ctrlLeft ≠ 0#4 ∧
      (runToken 0x80#8 [0x41] 4).inPos < (runToken 0x80#8 [0x41] 4).inLen ∧
      (runToken 0x80#8 [0x41] 4).memRead .inn (runToken 0x80#8 [0x41] 4).inPos.toNat = some 0x41#8 ∧
      (runToken 0x80#8 [0x41] 4).outCount < (runToken 0x80#8 [0x41] 4).expandedSize :=
  ⟨canonical_of_spaces (by decide +kernel), by decide +kernel⟩

/-- A ring filled with 0x20, at a match. -/
def ringState (bytes : List Nat) (size : Nat) : State :=
  { runToken 0#8 bytes size with params := { Params.default with ringFill := some 0x20#8 } }

/-- V44.1 with no ring fill: after the literal 0x41, the match EE F1 reads the one cell written so far; EXPANDED_SIZE 5. -/
def oneCell : State :=
  { runToken 0#8 [0xEE, 0xF1] 5 with
    ringMem := [(0xFEE, 0x41#8)], ringW := 0xFEF#12, outMem := [(0, 0x41#8)], outCount := 1#32 }

/-- The nearest back distance, 1, over one written cell, and the farthest, 4096 (R285's F = RING_W), over a filled ring. -/
theorem wit_LzssMatchCopiesFromRing :
    (oneCell.memoriesCanonical ∧ oneCell.ctrlLeft ≠ 0#4 ∧ oneCell.inPos.toNat + 2 ≤ oneCell.inLen.toNat ∧
      oneCell.memRead .inn 0 = some 0xEE#8 ∧ oneCell.memRead .inn (0 + 1) = some 0xF1#8 ∧
      oneCell.outCount ≤ oneCell.expandedSize ∧ (0xEE + 256 * (0xF1 / 16) + 1) % 4096 = oneCell.ringW.toNat ∧
      ∀ k, k < 4 → k < 1 → 1 + k < 5 → oneCell.memRead .ring ((0xFEE + k) % 4096) ≠ none) ∧
    ((ringState [0xEE, 0xFF] 20).memoriesCanonical ∧ (ringState [0xEE, 0xFF] 20).outCount ≤ 20#32 ∧
      (0xEE + 256 * (0xFF / 16) + 4096) % 4096 = (ringState [0xEE, 0xFF] 20).ringW.toNat ∧
      ∀ k, k < 18 → k < 4096 → (ringState [0xEE, 0xFF] 20).memRead .ring ((0xFEE + k) % 4096) ≠ none) := by
  refine ⟨⟨canonical_of_spaces (by decide +kernel), by decide +kernel, by decide +kernel, by decide +kernel,
    by decide +kernel, by decide +kernel, by decide +kernel, by decide +kernel⟩,
    ⟨canonical_of_spaces (by decide +kernel), by decide +kernel, by decide +kernel, fun k _ _ => ?_⟩⟩
  simp [ringState, State.memRead, State.memory, State.blank, Memory.load]

/-- Exhausted at a boundary under either policy, and in the middle of a pair. -/
theorem wit_LzssInputExhausted :
    ((runToken 0#8 [0x41] 4).ctrlLeft ≠ 0#4 ∧
      (runToken 0#8 [0x41] 4).inPos.toNat + 1 = (runToken 0#8 [0x41] 4).inLen.toNat) ∧
    ((runToken 0#8 [] 4).inPos = (runToken 0#8 [] 4).inLen ∧ (runToken 0#8 [] 4).params.eofPolicy = .fault) ∧
    ({ runToken 0#8 [] 4 with params := { Params.default with eofPolicy := .finish } } : State).params.eofPolicy =
      .finish := by decide +kernel

/-- A ring in which only the cells 0xFFF and 0 have a value, at a match from cell 0xFFF on. -/
def twoCells : State := { runToken 0#8 [0xFF, 0xF0] 3 with ringMem := [(0, 8#8), (0xFFF, 9#8)] }

/-- The first byte unwritten, in a ring with no cell written; the third, after two written ones; and a filled ring. -/
theorem wit_RingUnwrittenFaultsOnlyWithoutFill :
    ((runToken 0#8 [0xFF, 0xF0] 3).ctrlLeft ≠ 0#4 ∧
      (runToken 0#8 [0xFF, 0xF0] 3).inPos.toNat + 2 ≤ (runToken 0#8 [0xFF, 0xF0] 3).inLen.toNat ∧
      (runToken 0#8 [0xFF, 0xF0] 3).memRead .inn 0 = some 0xFF#8 ∧
      (runToken 0#8 [0xFF, 0xF0] 3).memRead .inn (0 + 1) = some 0xF0#8 ∧ 0 < 0xF0 % 16 + 3 ∧
      (0xFF + 256 * (0xF0 / 16) + 4079) % 4096 = (runToken 0#8 [0xFF, 0xF0] 3).ringW.toNat ∧
      (runToken 0#8 [0xFF, 0xF0] 3).outCount.toNat + 0 < (runToken 0#8 [0xFF, 0xF0] 3).expandedSize.toNat ∧
      (runToken 0#8 [0xFF, 0xF0] 3).memRead .ring ((0xFFF + 0) % 4096) = none) ∧
    (2 < 0xF0 % 16 + 3 ∧ (0xFFF + 4079) % 4096 = (twoCells).ringW.toNat ∧
      twoCells.outCount.toNat + 2 < twoCells.expandedSize.toNat ∧
      (∀ j, j < 2 → twoCells.memRead .ring ((0xFFF + j) % 4096) ≠ none) ∧
      twoCells.memRead .ring ((0xFFF + 2) % 4096) = none ∧
      onNext (exec .lzssMatch twoCells) (fun t => (outBytes t, faultOf t)) = some ([9, 8], (.fault, 6, 0, 1))) ∧
    ((ringState [0xFF, 0xF0] 3).params.ringFill ≠ none ∧
      (onNext (exec .lzssMatch (ringState [0xFF, 0xF0] 3)) fun t => t.state) = some .run) := by decide +kernel

theorem wit_StartInitialisesJob :
    (State.reset.state ≠ .run ∧ ({ State.reset with codec := 3#3 } : State).codec = 3#3) ∧
      ({ State.reset with codec := 5#3 } : State).codec = 5#3 ∧
      (State.reset.codec ≠ 3#3 ∧ State.reset.codec ≠ 5#3) ∧ (runLh5 [] 4).state = .run := by decide +kernel

theorem wit_AbortReturnsToIdle : (runLh5 [] 4).state = .run ∧ State.reset.state ≠ .run := by decide +kernel

theorem wit_HostWritesOnlyOutsideRun :
    ({ State.reset with host := [.writeIn 0#32 7#8] } : State).host = HostAction.writeIn 0#32 7#8 :: [] ∧
      State.reset.state ≠ .run ∧ ({ State.reset with host := [.writeIn 0#32 7#8] } : State).memoriesCanonical ∧
      ({ State.reset with host := [.writeOut 0#32 7#8] } : State).host = HostAction.writeOut 0#32 7#8 :: [] ∧
      (runLh5 [] 4).state = .run ∧
      ({ runLh5 [] 4 with host := [.writeInLen 7#32, .writeExpandedSize 7#32] } : State).host =
        HostAction.writeInLen 7#32 :: [.writeExpandedSize 7#32] :=
  ⟨rfl, by decide, canonical_of_spaces (by decide +kernel), rfl, rfl, rfl⟩

/-- A finished job of two bytes whose EXPANDED_SIZE the host has lowered to 1, with a host read pending. -/
def doneRead (o : HostObject) : State :=
  { withOut { runLh5 [5] 1 with state := .done } [7, 8] with host := [.read o] }

/-- The last OUT byte and the first beyond it, the last IN byte and the first beyond it, in DONE; a register in RUN; BITPOS
after a fault. -/
theorem wit_HostReadsWhatIsReadable :
    ((doneRead (.outByte 1#32)).host = HostAction.read (.outByte 1#32) :: [] ∧
      (doneRead (.outByte 1#32)).state = .done ∧ 1#32 < (doneRead (.outByte 1#32)).outCount ∧
      (doneRead (.outByte 1#32)).memRead .out 1 = some 8#8 ∧ (doneRead (.outByte 2#32)).outCount ≤ 2#32) ∧
    (0#32 < (doneRead (.inByte 0#32)).inLen ∧ (doneRead (.inByte 0#32)).memRead .inn 0 = some 5#8 ∧
      (doneRead (.inByte 1#32)).inLen ≤ 1#32) ∧
    ((runLh5 [] 2).state = .run ∧ State.reset.state = .idle ∧
      ({ State.reset with state := .fault } : State).state = .fault) := by decide +kernel

/-- LH5 at its end, at a header and at a symbol; LZSS at a control byte, at a literal and at a match. -/
theorem wit_StepSelects :
    ((runLh5 [] 0).host = [] ∧ (runLh5 [] 0).outCount = (runLh5 [] 0).expandedSize) ∧
      ((runLh5 [] 4).outCount ≠ (runLh5 [] 4).expandedSize ∧ (runLh5 [] 4).phase = .blockHeader) ∧
      (runSym 0 0 [] 4).phase = .streaming ∧ (runLzss [] 4).codec = 3#3 ∧ (runLzss [] 4).ctrlLeft = 0#4 ∧
      ((runToken 0x80#8 [] 4).ctrlLeft ≠ 0#4 ∧ (runToken 0x80#8 [] 4).ctrl.getLsbD 7 = true) ∧
      (runToken 0x7F#8 [] 4).ctrl.getLsbD 7 = false := by decide +kernel

/-- Each transition: a start, a reserved start, a finish, LZSS exhaustion under either policy, a fault of each kind, an
abort; and a start in RUN. -/
theorem wit_StateTransitionsAreTheListed :
    onNext (step { State.reset with codec := 5#3, host := [.command .start] }) (fun t => t.state) = some .run ∧
      onNext (step { State.reset with host := [.command .start] }) (fun t => t.state) = some .fault ∧
      onNext (step (runLh5 [] 0)) (fun t => t.state) = some .done ∧
      onNext (step { runLzss [] 4 with params := { Params.default with eofPolicy := .finish } }) (fun t => t.state) =
        some .done ∧
      onNext (step (runLzss [] 4)) (fun t => (t.state, t.faultCode.toNat)) = some (.fault, 3) ∧
      onNext (step (runToken 0#8 [0, 0] 4)) (fun t => (t.state, t.faultCode.toNat)) = some (.fault, 6) ∧
      onNext (step (runSym 256 0 [] 4)) (fun t => (t.state, t.faultCode.toNat)) = some (.fault, 2) ∧
      onNext (step (runLh5 [0, 1, 0xA0] 4)) (fun t => (t.state, t.faultCode.toNat)) = some (.fault, 1) ∧
      onNext (step { runLh5 [] 4 with host := [.command .abort] }) (fun t => t.state) = some .idle ∧
      onNext (step { runLh5 [] 4 with host := [.command .start] }) (fun t => t.state) = some .run := by decide +kernel

/-- Each raise of a running job: in each part of a header, of a match before any output, of exhaustion, of a pair cut short
and of the third source cell of a match; and a turn with a pending `wait`. -/
theorem wit_StateTransitionsAreTheListed_raises :
    ({ runLh5 [] 4 with host := [.wait] } : State).blockTurn ∧ (runLh5 [] 4).blockTurn ∧
    (runLh5 [0, 1, 0xA0] 4).blockStart.headerRaises ∧ (runLh5 [0, 1, 0, 0x3F, 0xE0] 4).blockStart.headerRaises ∧
    (runLh5 [0, 1, 0, 0, 0, 0x0F] 4).blockStart.headerRaises ∧
    (runSym 256 0 [] 4).blockStart.symbolRaises ∧ (runLzss [] 4).blockStart.tokenRaises ∧
    (runToken 0#8 [1] 4).blockStart.tokenRaises ∧ twoCells.blockStart.tokenRaises := by
  refine ⟨.inr rfl, .inl rfl, ⟨_, _, rfl, rfl, .inl (by decide +kernel)⟩,
    ⟨_, _, rfl, rfl, .inr ⟨by decide +kernel, ?_⟩⟩, ⟨_, _, rfl, rfl, .inr ⟨by decide +kernel, ?_⟩⟩,
    ⟨256, 0, 0, 0, .inl ⟨rfl, rfl, rfl⟩, by decide, by decide, .inl ⟨rfl, rfl, rfl⟩, by decide +kernel⟩,
    .inl (by decide +kernel), .inr ⟨by decide +kernel, by decide +kernel, .inl (by decide +kernel)⟩,
    .inr ⟨by decide +kernel, by decide +kernel, .inr ⟨by decide +kernel, 0xFF#8, 0xF0#8, by decide +kernel,
      by decide +kernel, 0xFFF, 4079, 2, by decide +kernel⟩⟩⟩
  · exact ⟨_, rfl, .inl (by decide +kernel)⟩
  · exact ⟨_, rfl, .inr ⟨by decide +kernel, _, rfl, by decide +kernel⟩⟩

/-- A state of a running job that has emitted nothing. -/
theorem fresh_outWritten {s : State} (m : s.outMem = []) (c : s.outCount = 0#32) : s.outWritten := fun _ a => by
  simp [State.memRead, State.memory, State.blank, Memory.load, m, c]

/-- An LZSS job with no input under policy end. -/
def eofEnd : State := { runLzss [] 4 with params := { Params.default with eofPolicy := .finish } }

/-- A job that is complete, and one that ends under policy end with its input exhausted. -/
theorem wit_DoneMeansOutputComplete :
    ((runLh5 [] 0).runLegal ∧ (runLh5 [] 0).faultRegistersLegal ∧ (runLh5 [] 0).outWritten ∧
      onNext (step (runLh5 [] 0)) (fun t => t.state) = some .done) ∧
    (eofEnd.runLegal ∧ eofEnd.faultRegistersLegal ∧ eofEnd.outWritten ∧
      onNext (step eofEnd) (fun t => (t.state, decide (t.outCount < t.expandedSize))) = some (.done, true)) :=
  ⟨⟨fun _ => ⟨by decide, by decide +kernel, by decide +kernel, by decide, fun _ => rfl⟩, ⟨fun _ => ⟨rfl, rfl, rfl⟩, nofun⟩,
      fresh_outWritten rfl rfl, by decide +kernel⟩,
    ⟨fun _ => ⟨by decide, by decide +kernel, by decide +kernel, by decide, fun _ => rfl⟩, ⟨fun _ => ⟨rfl, rfl, rfl⟩, nofun⟩,
      fresh_outWritten rfl rfl, by decide +kernel⟩⟩

/-- A field at its largest value in each varying kind. -/
theorem wit_FieldDecodeEncodeAgree :
    (StreamField.lengthCode 16).wellFormed = true ∧ (StreamField.extra 13 4095).wellFormed = true ∧
      (StreamField.extra 2 1).wellFormed = true ∧ (StreamField.pair 0xFFF#12 15#4).wellFormed = true := by decide

/-- Every header operation ends in a next state, completing and faulting. -/
theorem wit_HeaderOperationsFrame :
    onNext (exec .lh5Hdr (runLh5 [] 4)) (fun t => t.state) = some .run ∧
      onNext (exec .lh5Tlen (runLh5 [0xA0] 4)) (fun t => t.state) = some .fault ∧
      onNext (exec .lh5Clen (runLh5 [] 4)) (fun t => t.state) = some .run ∧
      onNext (exec .lh5Plen (runLh5 [] 4)) (fun t => t.state) = some .run := by decide +kernel

theorem wit_StreamOperationsFrame :
    onNext (exec .lh5Sym (runSym 65 0 [] 4)) (fun t => t.state) = some .run ∧
      onNext (exec (.lh5Lit 65) (runSym 65 0 [] 4)) (fun t => t.state) = some .run ∧
      onNext (exec (.lh5Match 256) (runSym 65 0 [] 4)) (fun t => t.state) = some .fault := by decide +kernel

theorem wit_LzssOperationsFrame :
    (runToken 0#8 [0, 0] 4).memoriesCanonical ∧
      onNext (exec .lzssCtrl (runToken 0#8 [0, 0] 4)) (fun t => t.state) = some .run ∧
      onNext (exec .lzssLit (runToken 0#8 [0, 0] 4)) (fun t => t.state) = some .run ∧
      onNext (exec .lzssMatch (runToken 0#8 [0, 0] 4)) (fun t => t.state) = some .fault :=
  ⟨canonical_of_spaces (by decide +kernel), by decide +kernel⟩

/-- The running states of this file meet the invariants, and their steps answer a next state. -/
theorem wit_StepKeepsMemoriesCanonical :
    (runToken 0x80#8 [0x41] 4).memoriesCanonical ∧
      onNext (step (runToken 0x80#8 [0x41] 4)) (fun t => t.state) = some .run :=
  ⟨canonical_of_spaces (by decide +kernel), by decide +kernel⟩

theorem wit_StepKeepsTablesShaped :
    (runLh5 [] 4).tablesShaped ∧ onNext (step (runLh5 [] 4)) (fun t => t.state) = some .run := by
  refine ⟨fun x => ?_, by decide +kernel⟩
  cases x <;> refine ⟨by decide +kernel, by decide +kernel, by decide +kernel, by decide +kernel, by decide +kernel⟩

theorem wit_StepKeepsRunLegal :
    (runSym 65 0 [] 4).runLegal ∧ onNext (step (runSym 65 0 [] 4)) (fun t => t.phase) = some .blockHeader :=
  ⟨fun _ => ⟨by decide, by decide +kernel, by decide +kernel, by decide, nofun⟩, by decide +kernel⟩

theorem wit_StepKeepsFaultRegistersLegal :
    (runSym 256 0 [] 4).faultRegistersLegal ∧ onNext (step (runSym 256 0 [] 4)) (fun t => t.state) = some .fault :=
  ⟨⟨fun _ => ⟨rfl, rfl, rfl⟩, nofun⟩, by decide +kernel⟩

theorem wit_StepKeepsOutWritten :
    (runSym 65 0 [] 4).outWritten ∧ onNext (step (runSym 65 0 [] 4)) (fun t => t.outCount.toNat) = some 1 := by
  exact ⟨fresh_outWritten rfl rfl, by decide +kernel⟩

/-- A ring that holds its last cell, and a write that wraps to its first. -/
theorem wit_StepKeepsRingInBounds :
    ({ runToken 0x80#8 [0x41] 4 with ringW := 0xFFF#12, ringMem := [(4095, 7#8)] } : State).ringInBounds ∧
      onNext (step { runToken 0x80#8 [0x41] 4 with ringW := 0xFFF#12, ringMem := [(4095, 7#8)] }) (fun t =>
        (t.ringMem, t.ringW.toNat)) = some ([(4095, 0x41#8)], 0) := by
  refine ⟨fun cell hc => ?_, by decide +kernel⟩
  simp only [List.mem_singleton] at hc
  subst hc
  decide

theorem wit_StepKeepsRingMirrorsOutput :
    (runToken 0x80#8 [0x41] 4).memoriesCanonical ∧ (runToken 0x80#8 [0x41] 4).ringMirrors ∧
      onNext (step (runToken 0x80#8 [0x41] 4)) (fun t => t.ringW.toNat) = some 0xFEF :=
  ⟨canonical_of_spaces (by decide +kernel), fun _ _ => ⟨by decide +kernel, nofun⟩, by decide +kernel⟩

theorem wit_StepKeepsTablesDecode :
    (runSym 65 0 [] 4).tablesDecode ∧ onNext (step (runSym 65 0 [] 4)) (fun t => t.state) = some .run :=
  ⟨fun _ _ => ⟨.inl ⟨rfl, by decide⟩, .inl ⟨rfl, by decide⟩⟩, by decide +kernel⟩

theorem wit_BlockNeverStops :
    (runSym 65 0 [] 4).runLegal ∧ (runSym 65 0 [] 4).outWritten ∧ (runSym 65 0 [] 4).noHostAccess :=
  ⟨wit_StepKeepsRunLegal.1, wit_StepKeepsOutWritten.1, .inl rfl⟩

theorem wit_EveryBlockStepMakesProgress :
    (runSym 65 0 [] 4).host = [] ∧ (runSym 65 0 [] 4).state = .run ∧
      onNext (step (runSym 65 0 [] 4)) (fun t => (t.remaining, (runSym 65 0 [] 4).remaining)) = some (7, 8) := by
  decide +kernel

theorem wit_CursorAndOutputOnlyAdvance :
    (runLh5 [] 4).host = [] ∧ (runLh5 [] 4).state = .run ∧ onNext (step (runLh5 [] 4)) (fun t => t.bitpos) = some 52 := by
  decide +kernel

theorem wit_RunKeepsJobInputs :
    onNext (step { runLh5 [7] 4 with host := [.command .reset] }) (fun t => (t.inMem, t.codec.toNat)) =
      some ([(0, 7#8)], 0) ∧
      onNext (step (runLh5 [7] 4)) (fun t => t.state) = some .run := by decide +kernel

/-- Two states of one job that differ in what no operation reads: stale tables, and the last host read. -/
theorem wit_JobDependsOnItsInputsOnly :
    (State.reset.state ≠ .run ∧ ∃ t, exec .cmdStart State.reset = .next t ∧ decide (t.state = .fault) = true) ∧
      (runLh5 [] 4).tablesDecode ∧
      (runLh5 [] 4).sameJob { runLh5 [] 4 with hostData := 1, tabT := { (runLh5 [] 4).tabT with avail := 9 } } ∧
      ∃ t, step (runLh5 [] 4) = .next t ∧ decide (t.state = .run) = true := by
  refine ⟨⟨by decide, exists_next _ (by decide +kernel)⟩, nofun, ?_, exists_next _ (by decide +kernel)⟩
  refine ⟨rfl, rfl, rfl, rfl, rfl, rfl, rfl, rfl, rfl, rfl, rfl, rfl, rfl, rfl, rfl, rfl, rfl, rfl, rfl,
    ⟨rfl, rfl, nofun⟩, ⟨rfl, rfl, fun _ _ => rfl⟩, ⟨rfl, rfl, fun _ _ => rfl⟩⟩

end Sys2Proof.Tests
end

section
/-! Proofs about the BitReader (40_bitreader.md). -/

namespace Sys2Proof.Machine

/-- R131: BR.INIT has no operand and no condition. -/
theorem exec_brInit (s : State) : exec .brInit s = .next { s with bitpos := 0 } := rfl

/-- R133, R135: BR.CONSUME of a width the reader allows is CONSUME itself, and never looks at IN. -/
theorem exec_brConsume_of_le {n : Nat} (hn : n ≤ Config.peekMax) (s : State) :
    exec (.brConsume n) s = .next (s.consume n) :=
  if_pos hn

/-- Settles O1: BR.INIT by its one arm; BR.CONSUME because n <= 16 is the width the reader allows, so that it is
CONSUME, whose record update names BITPOS alone. -/
theorem brInitAndConsumeMoveCursor : Obligations.BrInitAndConsumeMoveCursor := by
  intro s
  refine ⟨exec_brInit s, fun n hn => ?_⟩
  rw [exec_brConsume_of_le hn, State.consume]

end Sys2Proof.Machine
end

section
/-! Proofs about bit strings and the canonical code (00_scope.md R12, 41_huffman_table.md R151, R157): for a complete
length set no code begins another, every sixteen bits begin with a code, and the inner nodes of the code tree are fewer
than the symbols. -/

namespace Sys2Proof

/-! ## Bit strings -/

@[simp] theorem length_bitsOf (n v : Nat) : (bitsOf n v).length = n := by
  induction n with
  | zero => rfl
  | succ n ih => simp [bitsOf, ih]

theorem bitsOf_eq_iff {n a b : Nat} : bitsOf n a = bitsOf n b ↔ ∀ i < n, a.testBit i = b.testBit i := by
  induction n with
  | zero => simp [bitsOf]
  | succ n ih => simp only [bitsOf, List.cons.injEq, ih, Nat.forall_lt_succ_right, and_comm]

theorem bitsOf_inj {n a b : Nat} (ha : a < 2 ^ n) (hb : b < 2 ^ n) : bitsOf n a = bitsOf n b ↔ a = b := by
  refine ⟨fun h => Nat.eq_of_testBit_eq fun i => ?_, fun h => h ▸ rfl⟩
  by_cases hi : i < n
  · exact bitsOf_eq_iff.mp h i hi
  · have hpow : 2 ^ n ≤ 2 ^ i := Nat.pow_le_pow_right two_pos (by omega)
    rw [Nat.testBit_lt_two_pow (by omega), Nat.testBit_lt_two_pow (by omega)]

theorem exists_bitsOf (bs : List Bool) : ∃ v < 2 ^ bs.length, bitsOf bs.length v = bs := by
  induction bs with
  | nil => exact ⟨0, by simp, rfl⟩
  | cons b bs ih =>
    obtain ⟨v, hv, hbits⟩ := ih
    have htop := Bool.toNat_lt b
    refine ⟨2 ^ bs.length * b.toNat + v, ?_, ?_⟩
    · rw [List.length_cons, pow_succ]
      nlinarith
    · rw [List.length_cons, bitsOf, Nat.testBit_two_pow_mul_add _ hv]
      have hlow : bitsOf bs.length (2 ^ bs.length * b.toNat + v) = bitsOf bs.length v :=
        bitsOf_eq_iff.mpr fun i hi => by rw [Nat.testBit_two_pow_mul_add _ hv, if_pos hi]
      rw [hlow, hbits]
      cases b <;> simp

/-- The leading bits of a field are its value's quotient. -/
theorem take_bitsOf (m n v : Nat) : (bitsOf (m + n) v).take m = bitsOf m (v / 2 ^ n) := by
  induction m with
  | zero => simp [bitsOf]
  | succ m ih => rw [Nat.add_right_comm, bitsOf, List.take_succ_cons, ih, bitsOf, Nat.testBit_div_two_pow]

/-- The fields that begin with the l bits of a are an interval. -/
theorem bitsOf_prefix_iff {l m a w : Nat} (ha : a < 2 ^ l) (hw : w < 2 ^ (l + m)) :
    bitsOf l a <+: bitsOf (l + m) w ↔ a * 2 ^ m ≤ w ∧ w < a * 2 ^ m + 2 ^ m := by
  have hq : w / 2 ^ m < 2 ^ l := Nat.div_lt_of_lt_mul (by rwa [← pow_add, add_comm])
  rw [List.prefix_iff_eq_take, length_bitsOf, take_bitsOf, bitsOf_inj ha hq, eq_comm,
    Nat.div_eq_iff (Nat.two_pow_pos m)]
  have := Nat.two_pow_pos m
  omega

/-! ## first(l) and r(s) of R151 -/

theorem firstCode_succ {lens : List Nat} {l : Nat} (hl : 0 < l) :
    firstCode lens (l + 1) = firstCode lens l + lengthCount lens l * 2 ^ (16 - l) := by
  rw [firstCode, if_neg (by omega)]

theorem firstCode_mono (lens : List Nat) : Monotone (firstCode lens) :=
  monotone_nat_of_le_succ fun _ => Nat.le_add_right _ _

/-- first(l) is a multiple of the weight of length l (R159). -/
theorem dvd_firstCode (lens : List Nat) (l : Nat) : 2 ^ (16 - l) ∣ firstCode lens l := by
  induction l with
  | zero => exact dvd_zero _
  | succ l ih =>
    have hpow : 2 ^ (16 - (l + 1)) ∣ 2 ^ (16 - l) := pow_dvd_pow 2 (by omega)
    refine dvd_add (hpow.trans ih) ?_
    split
    · exact dvd_zero _
    · exact hpow.trans (dvd_mul_left _ _)

theorem lengthCount_take_succ {lens : List Nat} {v : Nat} (hv : v < lens.length) (l : Nat) :
    lengthCount (lens.take (v + 1)) l = lengthCount (lens.take v) l + if lens.getD v 0 = l then 1 else 0 := by
  rw [← List.take_concat_get' lens v hv, lengthCount, List.count_append, List.count_singleton,
    List.getD_eq_getElem _ _ hv]
  simp [lengthCount]

theorem lt_length_of_coded {lens : List Nat} {v : Nat} (hv : 0 < lens.getD v 0) : v < lens.length := by
  by_contra h
  rw [List.getD_eq_default _ _ (not_lt.mp h)] at hv
  exact lt_irrefl _ hv

/-- A sequence that starts at or below w and ends above it passes w in some step. -/
theorem exists_step_across {f : Nat → Nat} {w n : Nat} (hstart : f 0 ≤ w) (hend : w < f n) :
    ∃ m < n, f m ≤ w ∧ w < f (m + 1) := by
  induction n with
  | zero => omega
  | succ n ih =>
    by_cases hn : w < f n
    · obtain ⟨m, hm, h⟩ := ih hn
      exact ⟨m, by omega, h⟩
    · exact ⟨n, by omega, by omega, hend⟩

/-- Every rank below count(l) is r(v) of a symbol v of length l. -/
theorem exists_symbol_of_rank {lens : List Nat} {l r : Nat} (hr : r < lengthCount lens l) :
    ∃ v < lens.length, lens.getD v 0 = l ∧ lengthCount (lens.take v) l = r := by
  obtain ⟨v, hv, hle, hlt⟩ := exists_step_across (f := fun v => lengthCount (lens.take v) l) (w := r)
    (n := lens.length) (by simp [lengthCount]) (by simpa using hr)
  rw [lengthCount_take_succ hv] at hlt
  split at hlt
  · exact ⟨v, hv, ‹_›, by omega⟩
  · omega

theorem lengthCount_take_lt {lens : List Nat} {v : Nat} (hv : v < lens.length) {n : Nat} (hn : v < n) :
    lengthCount (lens.take v) (lens.getD v 0) < lengthCount (lens.take n) (lens.getD v 0) := by
  have hstep := lengthCount_take_succ hv (lens.getD v 0)
  have hle : lengthCount (lens.take (v + 1)) (lens.getD v 0) ≤ lengthCount (lens.take n) (lens.getD v 0) :=
    (List.take_sublist_take_left hn).count_le _
  rw [if_pos rfl] at hstep
  omega

/-! ## The code space (R157) -/

theorem codeSpaceTotal_eq_firstCode (lens : List Nat) : Machine.codeSpaceTotal lens = firstCode lens 17 := by
  have hsum : ∀ n,
      ((List.range n).map fun j => lengthCount lens (j + 1) * 2 ^ (15 - j)).sum = firstCode lens (n + 1) := by
    intro n
    induction n with
    | zero => simp [firstCode]
    | succ n ih =>
      rw [List.sum_range_succ, ih, firstCode_succ (Nat.succ_pos n), show 16 - (n + 1) = 15 - n by omega]
  exact hsum 16

/-- The weight of one length, as a sum over the lengths 1..16. -/
theorem sum_weight_of_length {l : Nat} (hl : l ≤ 16) :
    ((List.range 16).map fun j => (if l = j + 1 then 1 else 0) * 2 ^ (15 - j)).sum =
      if l = 0 then 0 else 2 ^ (16 - l) := by
  interval_cases l <;> rfl

/-- The total by lengths is the total by symbols. -/
theorem codeSpaceTotal_eq_sum {lens : List Nat} (hle : ∀ l ∈ lens, l ≤ 16) :
    Machine.codeSpaceTotal lens = (lens.map fun l => if l = 0 then 0 else 2 ^ (16 - l)).sum := by
  induction lens with
  | nil => rfl
  | cons l lens ih =>
    rw [List.forall_mem_cons] at hle
    have hcount : ∀ j, lengthCount (l :: lens) j = (if l = j then 1 else 0) + lengthCount lens j := by
      intro j
      simp [lengthCount, List.count_cons, add_comm]
    simp only [Machine.codeSpaceTotal, hcount, add_mul, List.sum_map_add, List.map_cons, List.sum_cons] at ih ⊢
    rw [ih hle.2, sum_weight_of_length hle.1]

/-- A length set that BUILD accepts (R156, R157): all lengths at most 16, their weights exactly the code space. -/
structure CompleteLengths (lens : List Nat) : Prop where
  le_maxLen : ∀ l ∈ lens, l ≤ 16
  total : firstCode lens 17 = 65536

theorem completeLengths_of_weight {lens : List Nat} (hle : ∀ l ∈ lens, l ≤ 16)
    (hw : (lens.map fun l => if l = 0 then 0 else 2 ^ (16 - l)).sum = 65536) : CompleteLengths lens :=
  ⟨hle, by rw [← codeSpaceTotal_eq_firstCode, codeSpaceTotal_eq_sum hle, hw]⟩

/-! ## The canonical code of a complete length set -/

section
variable {lens : List Nat}

theorem CompleteLengths.getD_le (hc : CompleteLengths lens) (v : Nat) : lens.getD v 0 ≤ 16 := by
  by_cases hv : v < lens.length
  · rw [List.getD_eq_getElem _ _ hv]
    exact hc.le_maxLen _ (List.getElem_mem hv)
  · rw [List.getD_eq_default _ _ (not_lt.mp hv)]
    exact Nat.zero_le _

/-- K(v) starts in the range of its length ... -/
theorem firstCode_le_canonicalCode (lens : List Nat) (v : Nat) :
    firstCode lens (lens.getD v 0) ≤ canonicalCode lens v := Nat.le_add_right _ _

/-- ... and its interval ends there. -/
theorem canonicalCode_add_le {v : Nat} (hv : 0 < lens.getD v 0) :
    canonicalCode lens v + 2 ^ (16 - lens.getD v 0) ≤ firstCode lens (lens.getD v 0 + 1) := by
  have hrank := lengthCount_take_lt (lt_length_of_coded hv) (lt_length_of_coded hv)
  rw [List.take_length] at hrank
  rw [firstCode_succ hv, canonicalCode, add_assoc, ← Nat.succ_mul]
  exact Nat.add_le_add_left (Nat.mul_le_mul_right _ hrank) _

/-- The intervals cover 0..65535. -/
theorem CompleteLengths.exists_covering (hc : CompleteLengths lens) {w : Nat} (hw : w < 65536) :
    ∃ v, 0 < lens.getD v 0 ∧ canonicalCode lens v ≤ w ∧ w < canonicalCode lens v + 2 ^ (16 - lens.getD v 0) := by
  obtain ⟨j, -, hle, hlt⟩ := exists_step_across (f := fun j => firstCode lens (j + 1)) (w := w) (n := 16)
    (by simp [firstCode]) (by simpa [hc.total] using hw)
  rw [firstCode_succ j.succ_pos, Nat.succ_eq_add_one] at hlt
  have hpow := Nat.two_pow_pos (16 - (j + 1))
  obtain ⟨v, -, hlen, hrank⟩ := exists_symbol_of_rank (lens := lens) (l := j + 1)
    (r := (w - firstCode lens (j + 1)) / 2 ^ (16 - (j + 1))) ((Nat.div_lt_iff_lt_mul hpow).mpr (by omega))
  have hdiv := Nat.div_add_mod' (w - firstCode lens (j + 1)) (2 ^ (16 - (j + 1)))
  have hmod := Nat.mod_lt (w - firstCode lens (j + 1)) hpow
  refine ⟨v, by omega, ?_⟩
  rw [canonicalCode, hlen, hrank]
  omega

/-- The interval of a shorter code, or of an earlier one of the same length, ends before the other's starts. -/
theorem canonicalCode_add_le_of_before {v v' : Nat} (hv : 0 < lens.getD v 0)
    (hbefore : lens.getD v 0 < lens.getD v' 0 ∨ lens.getD v 0 = lens.getD v' 0 ∧ v < v') :
    canonicalCode lens v + 2 ^ (16 - lens.getD v 0) ≤ canonicalCode lens v' := by
  rcases hbefore with hlt | ⟨heq, hlt⟩
  · calc _ ≤ firstCode lens (lens.getD v 0 + 1) := canonicalCode_add_le hv
      _ ≤ firstCode lens (lens.getD v' 0) := firstCode_mono lens hlt
      _ ≤ _ := firstCode_le_canonicalCode lens v'
  · have hrank := lengthCount_take_lt (lt_length_of_coded hv) hlt
    simp only [canonicalCode, ← heq]
    rw [add_assoc, ← Nat.succ_mul]
    exact Nat.add_le_add_left (Nat.mul_le_mul_right _ hrank) _

/-- The intervals are disjoint. -/
theorem covering_unique {v v' w : Nat} (hv : 0 < lens.getD v 0) (hv' : 0 < lens.getD v' 0)
    (hle : canonicalCode lens v ≤ w) (hlt : w < canonicalCode lens v + 2 ^ (16 - lens.getD v 0))
    (hle' : canonicalCode lens v' ≤ w) (hlt' : w < canonicalCode lens v' + 2 ^ (16 - lens.getD v' 0)) : v = v' := by
  by_contra hne
  by_cases hbefore : lens.getD v 0 < lens.getD v' 0 ∨ lens.getD v 0 = lens.getD v' 0 ∧ v < v'
  · have := canonicalCode_add_le_of_before hv hbefore
    omega
  · have := canonicalCode_add_le_of_before (v' := v) hv' (by omega)
    omega

theorem CompleteLengths.canonicalCode_lt (hc : CompleteLengths lens) {v : Nat} (hv : 0 < lens.getD v 0) :
    canonicalCode lens v < 65536 := by
  have hend := canonicalCode_add_le hv
  have htotal := firstCode_mono lens (show lens.getD v 0 + 1 ≤ 17 from Nat.succ_le_succ (hc.getD_le v))
  have := Nat.two_pow_pos (16 - lens.getD v 0)
  rw [hc.total] at htotal
  omega

/-- The code of v as a number of LEN[v] bits, and K(v) as that number left-aligned. -/
theorem CompleteLengths.exists_codeValue (hc : CompleteLengths lens) {v : Nat} (hv : 0 < lens.getD v 0) :
    ∃ a < 2 ^ lens.getD v 0, canonicalCode lens v = a * 2 ^ (16 - lens.getD v 0) ∧
      codeBits lens v = bitsOf (lens.getD v 0) a := by
  have hl := hc.getD_le v
  have hsplit : 16 = lens.getD v 0 + (16 - lens.getD v 0) := by omega
  obtain ⟨a, ha⟩ : 2 ^ (16 - lens.getD v 0) ∣ canonicalCode lens v :=
    dvd_add (dvd_firstCode lens _) (dvd_mul_left _ _)
  rw [mul_comm] at ha
  refine ⟨a, ?_, ha, ?_⟩
  · have hlt := hc.canonicalCode_lt hv
    rw [ha, show 65536 = 2 ^ lens.getD v 0 * 2 ^ (16 - lens.getD v 0) by rw [← pow_add, ← hsplit]; rfl] at hlt
    exact lt_of_mul_lt_mul_right hlt (Nat.zero_le _)
  · rw [codeBits, ha]
    conv_lhs => rw [hsplit, take_bitsOf]
    rw [← hsplit, Nat.mul_div_cancel _ (Nat.two_pow_pos _)]

@[simp] theorem CompleteLengths.length_codeBits (hc : CompleteLengths lens) (v : Nat) :
    (codeBits lens v).length = lens.getD v 0 := by
  rw [codeBits, List.length_take, length_bitsOf, min_eq_left (hc.getD_le v)]

/-- Sixteen bits begin with the code of v when they are in its interval. -/
theorem CompleteLengths.codeBits_prefix_iff (hc : CompleteLengths lens) {v w : Nat} (hv : 0 < lens.getD v 0)
    (hw : w < 65536) : codeBits lens v <+: bitsOf 16 w ↔
      canonicalCode lens v ≤ w ∧ w < canonicalCode lens v + 2 ^ (16 - lens.getD v 0) := by
  obtain ⟨a, ha, hK, hbits⟩ := hc.exists_codeValue hv
  have hsplit : lens.getD v 0 + (16 - lens.getD v 0) = 16 := Nat.add_sub_cancel' (hc.getD_le v)
  have hiff := bitsOf_prefix_iff (m := 16 - lens.getD v 0) ha (by rwa [hsplit])
  rwa [hsplit, ← hK, ← hbits] at hiff

/-- The code is complete: sixteen bits begin with a code. -/
theorem CompleteLengths.exists_code_prefix (hc : CompleteLengths lens) {bs : List Bool} (hbs : bs.length = 16) :
    ∃ v, 0 < lens.getD v 0 ∧ codeBits lens v <+: bs := by
  obtain ⟨w, hw, hbits⟩ := exists_bitsOf bs
  rw [hbs] at hw hbits
  obtain ⟨v, hv, hcover⟩ := hc.exists_covering hw
  exact ⟨v, hv, hbits ▸ (hc.codeBits_prefix_iff hv hw).mpr hcover⟩

/-- No code begins another (R162(c)). -/
theorem CompleteLengths.eq_of_code_prefix (hc : CompleteLengths lens) {v v' : Nat} (hv : 0 < lens.getD v 0)
    (hv' : 0 < lens.getD v' 0) (h : codeBits lens v <+: codeBits lens v') : v = v' := by
  have hK := hc.canonicalCode_lt hv'
  have hown : codeBits lens v' <+: bitsOf 16 (canonicalCode lens v') := List.take_prefix _ _
  obtain ⟨hle, hlt⟩ := (hc.codeBits_prefix_iff hv hK).mp (h.trans hown)
  obtain ⟨hle', hlt'⟩ := (hc.codeBits_prefix_iff hv' hK).mp hown
  exact covering_unique hv hv' hle hlt hle' hlt'

/-- A string of at most sixteen bits begins with a code or begins one. -/
theorem CompleteLengths.exists_comparable_code (hc : CompleteLengths lens) {p : List Bool} (hp : p.length ≤ 16) :
    ∃ v, 0 < lens.getD v 0 ∧ (codeBits lens v <+: p ∨ p <+: codeBits lens v) := by
  obtain ⟨v, hv, hcode⟩ := hc.exists_code_prefix (bs := p ++ List.replicate (16 - p.length) false)
    (by simp; omega)
  exact ⟨v, hv, List.prefix_or_prefix_of_prefix hcode (List.prefix_append _ _)⟩

/-! ## Inner paths (R162(e), R163) -/

/-- A string that a code begins with and goes on from: the path of an inner node of the code tree. -/
def InnerPath (lens : List Nat) (p : List Bool) : Prop :=
  ∃ v, 0 < lens.getD v 0 ∧ p <+: codeBits lens v ∧ p ≠ codeBits lens v

/-- No code begins an inner path. -/
theorem InnerPath.not_code_prefix {p : List Bool} (hp : InnerPath lens p) (hc : CompleteLengths lens) {v : Nat}
    (hv : 0 < lens.getD v 0) : ¬ codeBits lens v <+: p := by
  intro h
  obtain ⟨t, ht, hpre, hne⟩ := hp
  obtain rfl := hc.eq_of_code_prefix hv ht (h.trans hpre)
  exact hne (hpre.eq_of_length_le h.length_le)

theorem InnerPath.length_lt {p : List Bool} (hp : InnerPath lens p) (hc : CompleteLengths lens) : p.length < 16 := by
  obtain ⟨t, ht, hpre, hne⟩ := hp
  have hle := hc.getD_le t
  have hlt : p.length < (codeBits lens t).length :=
    lt_of_le_of_ne hpre.length_le fun h => hne (hpre.eq_of_length h)
  rw [hc.length_codeBits] at hlt
  omega

/-- The first code to the right of an inner node: one more 1, and then zeros only. -/
theorem InnerPath.exists_right_code {p : List Bool} (hp : InnerPath lens p) (hc : CompleteLengths lens) :
    ∃ v j, 0 < lens.getD v 0 ∧ codeBits lens v = p ++ true :: List.replicate j false := by
  have hlen := hp.length_lt hc
  obtain ⟨v, hv, hcode⟩ := hc.exists_code_prefix (bs := p ++ true :: List.replicate (15 - p.length) false)
    (by simp; omega)
  have hnot := hp.not_code_prefix hc hv
  obtain ⟨r, hr⟩ := (List.prefix_or_prefix_of_prefix hcode (List.prefix_append _ _)).resolve_left hnot
  rw [← hr, List.prefix_append_right_inj, List.prefix_cons_iff] at hcode
  rcases hcode with rfl | ⟨zeros, rfl, hzeros⟩
  · exact absurd ⟨[], by simpa using hr.symm⟩ hnot
  · obtain ⟨-, hrep⟩ := List.prefix_replicate_iff.mp hzeros
    exact ⟨v, zeros.length, hv, by rw [← hr, ← hrep]⟩

/-- The trailing zeros and the 1 before them can be taken off in one way only. -/
theorem append_true_zeros_inj {p q : List Bool} {i j : Nat}
    (h : p ++ true :: List.replicate i false = q ++ true :: List.replicate j false) : p = q := by
  have hdrop := congrArg (fun l => l.reverse.dropWhile (!·)) h
  simpa [List.dropWhile_append] using hdrop

/-- A complete code of N symbols has fewer than N inner paths: each gives a code of its own, none of them all zeros. -/
theorem CompleteLengths.card_innerPaths_lt (hc : CompleteLengths lens) {S : Finset (List Bool)}
    (hS : ∀ p ∈ S, InnerPath lens p) : S.card < lens.length := by
  obtain ⟨z, hz, hzeros⟩ := hc.exists_code_prefix (bs := List.replicate 16 false) (by simp)
  have hzN := lt_length_of_coded hz
  choose! f j hcoded hcode using fun p hp => (hS p hp).exists_right_code hc
  have hmaps : Set.MapsTo f S ((Finset.range lens.length).erase z) := by
    intro p hp
    have hlt := lt_length_of_coded (hcoded p hp)
    refine Finset.mem_coe.mpr (Finset.mem_erase.mpr ⟨fun h => ?_, Finset.mem_range.mpr hlt⟩)
    rw [← h, hcode p hp] at hzeros
    have := hzeros.mem (a := true) (by simp)
    simp at this
  have hinj : Set.InjOn f S := by
    intro p hp q hq h
    refine append_true_zeros_inj (i := j p) (j := j q) ?_
    rw [← hcode p hp, ← hcode q hq, h]
  have hcard := Finset.card_le_card_of_injOn f hmaps hinj
  rw [Finset.card_erase_of_mem (Finset.mem_range.mpr hzN), Finset.card_range] at hcard
  omega

end
end Sys2Proof
end

section
/-! Proofs about the cells of a table unit and the bit paths that reach them (41_huffman_table.md R161, R170, R176). -/

namespace Sys2Proof

theorem Alphabet.two_le_size (x : Alphabet) : 2 ≤ x.size := by cases x <;> decide

theorem Alphabet.tableBits_le (x : Alphabet) : x.tableBits ≤ 16 := by cases x <;> decide

end Sys2Proof

namespace Sys2Proof.Machine

variable {x : Alphabet} {u u' : TableUnit} {c c' : CellRef} {p q : List Bool} {d d' : Nat}

/-! ## Cells -/

/-- The cell a walk goes to from node d: a 1 to the right, a 0 to the left (R161). -/
def childCell (b : Bool) (d : Nat) : CellRef := if b then .right d else .left d

theorem childCell_inj {b b' : Bool} : childCell b d = childCell b' d' ↔ b = b' ∧ d = d' := by
  cases b <;> cases b' <;> simp [childCell]

@[simp] theorem childCell_ne_table (b : Bool) (j : Nat) : childCell b d ≠ .table j := by
  cases b <;> simp [childCell]

/-- The arrays have this cell. -/
def TableUnit.hasCell (x : Alphabet) (u : TableUnit) : CellRef → Prop
  | .table j => j < u.table.length
  | .left d => x.size ≤ d ∧ d - x.size < u.left.length
  | .right d => x.size ≤ d ∧ d - x.size < u.right.length

theorem TableUnit.hasCell_childCell (hu : u.shaped x) (b : Bool) (hd : x.size ≤ d) (hd' : d < 2 * x.size - 1) :
    u.hasCell x (childCell b d) := by
  obtain ⟨-, -, hleft, hright, -⟩ := hu
  cases b
  · exact ⟨hd, by omega⟩
  · exact ⟨hd, by omega⟩

theorem getD_set {α : Type} {l : List α} {i : Nat} (hi : i < l.length) (e a : α) (j : Nat) :
    (l.set i e).getD j a = if j = i then e else l.getD j a := by
  by_cases h : j = i
  · subst h
    simp [hi]
  · simp [h, Ne.symm h]

theorem TableUnit.writeCell_left (u : TableUnit) (hd : x.size ≤ d) (e : Entry) :
    u.writeCell x (.left d) e = { u with left := u.left.set (d - x.size) e } := if_pos hd

theorem TableUnit.writeCell_right (u : TableUnit) (hd : x.size ≤ d) (e : Entry) :
    u.writeCell x (.right d) e = { u with right := u.right.set (d - x.size) e } := if_pos hd

/-- An array of node cells, numbered from N on, read after a write. -/
theorem getD_set_node {l : List Entry} {n : Nat} (hd : n ≤ d) (hlen : d - n < l.length) (e : Entry) (d' : Nat) :
    (if n ≤ d' then (l.set (d - n) e).getD (d' - n) none else none) =
      if d' = d then e else if n ≤ d' then l.getD (d' - n) none else none := by
  by_cases hd' : n ≤ d'
  · have hiff : d' - n = d - n ↔ d' = d := by omega
    simp only [hd', if_true, getD_set hlen, hiff]
  · have hne : d' ≠ d := by omega
    simp only [hd', hne, if_false]

/-- A cell read after a write. -/
theorem TableUnit.readCell_writeCell (hc : u.hasCell x c) (e : Entry) (c' : CellRef) :
    (u.writeCell x c e).readCell x c' = if c' = c then e else u.readCell x c' := by
  cases c with
  | table j =>
    cases c' with
    | table j' => simpa [TableUnit.readCell, TableUnit.writeCell] using getD_set hc e none j'
    | left _ => rfl
    | right _ => rfl
  | left d =>
    obtain ⟨hd, hlen⟩ := hc
    rw [TableUnit.writeCell_left u hd]
    cases c' with
    | table _ => rfl
    | left d' => simpa [TableUnit.readCell] using getD_set_node hd hlen e d'
    | right _ => rfl
  | right d =>
    obtain ⟨hd, hlen⟩ := hc
    rw [TableUnit.writeCell_right u hd]
    cases c' with
    | table _ => rfl
    | left _ => rfl
    | right d' => simpa [TableUnit.readCell] using getD_set_node hd hlen e d'

@[simp] theorem TableUnit.readCell_avail (n : Nat) (c : CellRef) :
    ({ u with avail := n } : TableUnit).readCell x c = u.readCell x c := by cases c <;> rfl

theorem TableUnit.readCell_childCell_table (t : List Entry) (b : Bool) :
    ({ u with table := t } : TableUnit).readCell x (childCell b d) = u.readCell x (childCell b d) := by cases b <;> rfl

/-- Two units that agree on all but the three arrays and AVAIL_X. -/
def TableUnit.sameRegisters (u u' : TableUnit) : Prop :=
  u'.len = u.len ∧ u'.constV = u.constV ∧ u'.constSym = u.constSym

theorem TableUnit.sameRegisters.trans {u₀ : TableUnit} (h : u₀.sameRegisters u) (h' : u.sameRegisters u') :
    u₀.sameRegisters u' := by
  obtain ⟨hlen, hv, hsym⟩ := h
  obtain ⟨hlen', hv', hsym'⟩ := h'
  exact ⟨hlen'.trans hlen, hv'.trans hv, hsym'.trans hsym⟩

theorem TableUnit.writeCell_sameRegisters (u : TableUnit) (c : CellRef) (e : Entry) :
    u.sameRegisters (u.writeCell x c e) := by
  unfold TableUnit.sameRegisters TableUnit.writeCell
  cases c with
  | table j => exact ⟨rfl, rfl, rfl⟩
  | left d => dsimp only; split <;> exact ⟨rfl, rfl, rfl⟩
  | right d => dsimp only; split <;> exact ⟨rfl, rfl, rfl⟩

@[simp] theorem TableUnit.writeCell_avail (u : TableUnit) (c : CellRef) (e : Entry) :
    (u.writeCell x c e).avail = u.avail := by
  cases c with
  | table j => rfl
  | left d => dsimp only [TableUnit.writeCell]; split <;> rfl
  | right d => dsimp only [TableUnit.writeCell]; split <;> rfl

/-- R176: a write keeps the sizes of the arrays. -/
theorem TableUnit.shaped_writeCell (hu : u.shaped x) (c : CellRef) (e : Entry) : (u.writeCell x c e).shaped x := by
  obtain ⟨hlen, htable, hleft, hright, hlens⟩ := hu
  have hset : ∀ (l : List Entry) (i : Nat), (l.set i e).length = l.length := fun _ _ => List.length_set
  cases c with
  | table j => exact ⟨hlen, (hset _ _).trans htable, hleft, hright, hlens⟩
  | left d =>
    dsimp only [TableUnit.writeCell]
    split
    · exact ⟨hlen, htable, (hset _ _).trans hleft, hright, hlens⟩
    · exact ⟨hlen, htable, hleft, hright, hlens⟩
  | right d =>
    dsimp only [TableUnit.writeCell]
    split
    · exact ⟨hlen, htable, hleft, (hset _ _).trans hright, hlens⟩
    · exact ⟨hlen, htable, hleft, hright, hlens⟩

/-! ## Paths -/

/-- The bit string p leads from the flat table to cell c: the first TB bits are the index of a TABLE_X entry, each further
bit goes from a node to one of its children (the walks of R161 and R170). -/
inductive TableUnit.Reaches (x : Alphabet) (u : TableUnit) : List Bool → CellRef → Prop
  | table {j : Nat} (hj : j < 2 ^ x.tableBits) : Reaches x u (bitsOf x.tableBits j) (.table j)
  | child {p : List Bool} {c : CellRef} {d : Nat} (b : Bool) (hp : Reaches x u p c)
      (hr : u.readCell x c = some d) (hd : x.size ≤ d) : Reaches x u (p ++ [b]) (childCell b d)

namespace TableUnit.Reaches

theorem tableBits_le_length (h : u.Reaches x p c) : x.tableBits ≤ p.length := by
  induction h with
  | table _ => simp
  | child b _ _ _ ih => simp; omega

/-- A path is the index of a TABLE_X entry, or a shorter path to a node and one bit more. -/
theorem cases_path (h : u.Reaches x p c) :
    (∃ j < 2 ^ x.tableBits, p = bitsOf x.tableBits j ∧ c = .table j) ∨
      ∃ q b c₀ d, p = q ++ [b] ∧ c = childCell b d ∧ u.Reaches x q c₀ ∧ u.readCell x c₀ = some d ∧ x.size ≤ d := by
  cases h with
  | table hj => exact .inl ⟨_, hj, rfl, rfl⟩
  | child b hp hr hd => exact .inr ⟨_, b, _, _, rfl, rfl, hp, hr, hd⟩

/-- A path leads to one cell. -/
theorem cell_unique (h : u.Reaches x p c) (h' : u.Reaches x p c') : c = c' := by
  induction h generalizing c' with
  | table hj =>
    rcases h'.cases_path with ⟨j, hj', hbits, rfl⟩ | ⟨q, b, c₀, d, hq, rfl, hr, -⟩
    · rw [(bitsOf_inj hj hj').mp hbits]
    · have hlen := congrArg List.length hq
      have := hr.tableBits_le_length
      simp at hlen
      omega
  | child b hp hr hd ih =>
    rcases h'.cases_path with ⟨j, hj', hbits, rfl⟩ | ⟨q, b', c₀, d', hq, rfl, hp', hr', -⟩
    · have hlen := congrArg List.length hbits
      have := hp.tableBits_le_length
      simp at hlen
      omega
    · obtain ⟨rfl, hb⟩ := List.append_inj' hq rfl
      rw [ih hp', hr'] at hr
      cases hb
      cases hr
      rfl

/-- The cells on the way to a cell hold nodes. -/
theorem node_of_prefix (h : u.Reaches x p c) (h' : u.Reaches x q c') (hpre : q <+: p) (hne : q ≠ p) :
    ∃ d, x.size ≤ d ∧ u.readCell x c' = some d := by
  induction h with
  | table hj =>
    have hle := h'.tableBits_le_length
    exact absurd (hpre.eq_of_length_le (by simpa using hle)) hne
  | @child p₀ c₀ d b hp hr hd ih =>
    have hpre' := (List.prefix_concat_iff.mp hpre).resolve_left hne
    by_cases heq : q = p₀
    · subst heq
      obtain rfl := h'.cell_unique hp
      exact ⟨d, hd, hr⟩
    · exact ih hpre' heq

/-- What keeps the nodes keeps the paths. -/
theorem mono (h : u.Reaches x p c)
    (hkeep : ∀ p c d, u.Reaches x p c → x.size ≤ d → u.readCell x c = some d → u'.readCell x c = some d) :
    u'.Reaches x p c := by
  induction h with
  | table hj => exact .table hj
  | child b hp hr hd ih => exact .child b ih (hkeep _ _ _ hp hd hr) hd

end TableUnit.Reaches

end Sys2Proof.Machine
end

section
/-! Proofs about HT.BUILD on a complete length set (41_huffman_table.md R158 to R163): what the table holds after each
symbol, kept by every allocation and every leaf, and what follows of the whole table. -/

namespace Sys2Proof.Machine

/-! ## Allocation -/

/-- The unit after `*cell <- AVAIL_X; AVAIL_X <- AVAIL_X + 1` (R161). -/
def TableUnit.allocate (x : Alphabet) (u : TableUnit) (c : CellRef) : TableUnit :=
  { u.writeCell x c (some u.avail) with avail := u.avail + 1 }

@[simp] theorem TableUnit.allocate_avail (x : Alphabet) (u : TableUnit) (c : CellRef) :
    (u.allocate x c).avail = u.avail + 1 := rfl

theorem TableUnit.readCell_allocate {x : Alphabet} {u : TableUnit} {c : CellRef} (hc : u.hasCell x c) (c' : CellRef) :
    (u.allocate x c).readCell x c' = if c' = c then some u.avail else u.readCell x c' := by
  rw [TableUnit.allocate, TableUnit.readCell_avail, TableUnit.readCell_writeCell hc]

theorem TableUnit.shaped_allocate {x : Alphabet} {u : TableUnit} (hu : u.shaped x) (c : CellRef) :
    (u.allocate x c).shaped x := TableUnit.shaped_writeCell hu c _

theorem TableUnit.allocate_sameRegisters {x : Alphabet} (u : TableUnit) (c : CellRef) :
    u.sameRegisters (u.allocate x c) := u.writeCell_sameRegisters c _

/-- An allocation keeps the paths. -/
theorem TableUnit.Reaches.allocate {x : Alphabet} {u : TableUnit} {c c' : CellRef} {q : List Bool}
    (hcell : u.hasCell x c) (hr : u.readCell x c = none) (hq : u.Reaches x q c') : (u.allocate x c).Reaches x q c' :=
  hq.mono fun _ c₁ d _ _ hd => by
    rw [TableUnit.readCell_allocate hcell, if_neg, hd]
    rintro rfl
    rw [hr] at hd
    cases hd

/-! ## What the table holds -/

/-- Unit u, which BUILD has made out of u₀, holds the canonical codes of the symbols below v and nothing else: a cell that
a bit path reaches is NIL only where no such code goes, holds a symbol only along that symbol's code, and holds a node
only inside the code tree; every allocated node stands in a cell that one path reaches. -/
structure TableUnit.HoldsCodes (x : Alphabet) (u₀ : TableUnit) (v : Nat) (u : TableUnit) : Prop where
  shaped : u.shaped x
  registers : u₀.sameRegisters u
  size_le_avail : x.size ≤ u.avail
  avail_le : u.avail ≤ 2 * x.size - 1
  fresh : ∀ b d, u.avail ≤ d → u.readCell x (childCell b d) = none
  owned : ∀ d, x.size ≤ d → d < u.avail → ∃ p c, u.Reaches x p c ∧ u.readCell x c = some d
  path_unique : ∀ p q c, u.Reaches x p c → u.Reaches x q c → p = q
  empty : ∀ p c, u.Reaches x p c → u.readCell x c = none → ∀ s < v, 0 < u₀.lens.getD s 0 →
    ¬ (codeBits u₀.lens s <+: p ∨ p <+: codeBits u₀.lens s)
  symbol : ∀ p c s, u.Reaches x p c → u.readCell x c = some s → s < x.size →
    s < v ∧ 0 < u₀.lens.getD s 0 ∧ codeBits u₀.lens s <+: p
  node : ∀ p c d, u.Reaches x p c → u.readCell x c = some d → x.size ≤ d → d < u.avail ∧ InnerPath u₀.lens p

namespace TableUnit.HoldsCodes

variable {x : Alphabet} {u₀ u u' : TableUnit} {v d : Nat} {p : List Bool} {c : CellRef}

theorem length_lens (h : HoldsCodes x u₀ v u) : u₀.lens.length = x.size := by
  obtain ⟨hlen, -⟩ := h.shaped
  obtain ⟨hkept, -⟩ := h.registers
  rw [TableUnit.lens, List.length_map, ← hkept, hlen]

theorem hasCell (h : HoldsCodes x u₀ v u) (hp : u.Reaches x p c) : u.hasCell x c := by
  rcases hp.cases_path with ⟨j, hj, rfl, rfl⟩ | ⟨q, b, c₀, d, rfl, rfl, hq, hr, hd⟩
  · obtain ⟨-, htable, -⟩ := h.shaped
    exact lt_of_lt_of_eq hj htable.symm
  · obtain ⟨hlt, -⟩ := h.node _ _ _ hq hr hd
    exact hasCell_childCell h.shaped b hd (lt_of_lt_of_le hlt h.avail_le)

/-- No path reaches a child of a node that is not allocated yet. -/
theorem ne_childCell (h : HoldsCodes x u₀ v u) (hp : u.Reaches x p c) (b : Bool) (hd : u.avail ≤ d) :
    c ≠ childCell b d := by
  rintro rfl
  rcases hp.cases_path with ⟨j, -, -, hc⟩ | ⟨q, b', c₀, d', -, hc, hq, hr, hd'⟩
  · exact childCell_ne_table b j hc
  · obtain ⟨-, rfl⟩ := childCell_inj.mp hc
    obtain ⟨hlt, -⟩ := h.node _ _ _ hq hr hd'
    omega

/-- R163: where a walk needs a node, one is left. -/
theorem avail_le_of_inner (h : HoldsCodes x u₀ v u) (hc : CompleteLengths u₀.lens) (hp : u.Reaches x p c)
    (hr : u.readCell x c = none) (hinner : InnerPath u₀.lens p) : u.avail ≤ 2 * x.size - 2 := by
  choose! f g hf hg using fun d (hd : x.size ≤ d ∧ d < u.avail) => h.owned d hd.1 hd.2
  have hmem : ∀ {d}, d ∈ Finset.Ico x.size u.avail → x.size ≤ d ∧ d < u.avail := Finset.mem_Ico.mp
  have hinj : Set.InjOn f (Finset.Ico x.size u.avail) := by
    intro d hd e he heq
    have hcell := (hf d (hmem hd)).cell_unique (heq ▸ hf e (hmem he))
    have hsome := (hg d (hmem hd)).symm.trans (hcell ▸ hg e (hmem he))
    exact Option.some.inj hsome
  have hnew : p ∉ (Finset.Ico x.size u.avail).image f := by
    intro hmemp
    obtain ⟨d, hd, rfl⟩ := Finset.mem_image.mp hmemp
    rw [hp.cell_unique (hf d (hmem hd)), hg d (hmem hd)] at hr
    cases hr
  have hall : ∀ q ∈ insert p ((Finset.Ico x.size u.avail).image f), InnerPath u₀.lens q := by
    intro q hq
    rcases Finset.mem_insert.mp hq with rfl | hq
    · exact hinner
    · obtain ⟨d, hd, rfl⟩ := Finset.mem_image.mp hq
      exact (h.node _ _ _ (hf d (hmem hd)) (hg d (hmem hd)) (hmem hd).1).2
  have hcard := hc.card_innerPaths_lt hall
  rw [Finset.card_insert_of_notMem hnew, Finset.card_image_of_injOn hinj, Nat.card_Ico, h.length_lens] at hcard
  omega

/-! ## A node is allocated (R161) -/

/-- The paths after an allocation at c: those before it, and those of the new node's two children. -/
theorem reaches_allocate (h : HoldsCodes x u₀ v u) (hp : u.Reaches x p c) (hr : u.readCell x c = none)
    {q : List Bool} {c' : CellRef} (hq : (u.allocate x c).Reaches x q c') :
    u.Reaches x q c' ∨ ∃ q₀ b, q = q₀ ++ [b] ∧ c' = childCell b u.avail ∧ u.Reaches x q₀ c := by
  induction hq with
  | table hj => exact .inl (.table hj)
  | @child q₁ c₁ d b _ hr₁ hd ih =>
    rw [readCell_allocate (h.hasCell hp)] at hr₁
    split at hr₁
    · subst_vars
      cases hr₁
      rcases ih with hold | ⟨q₀, b', -, hc, -⟩
      · exact .inr ⟨q₁, b, rfl, rfl, hold⟩
      · exact absurd hc (h.ne_childCell hp b' le_rfl)
    · rcases ih with hold | ⟨q₀, b', -, rfl, -⟩
      · exact .inl (.child b hold hr₁ hd)
      · rw [h.fresh b' _ le_rfl] at hr₁
        cases hr₁

/-- An allocation where the walk of a code needs a node keeps what the table holds. -/
theorem allocate (h : HoldsCodes x u₀ v u) (hc : CompleteLengths u₀.lens) (hp : u.Reaches x p c)
    (hr : u.readCell x c = none) (hinner : InnerPath u₀.lens p) : HoldsCodes x u₀ v (u.allocate x c) := by
  have hcell := h.hasCell hp
  have hread := readCell_allocate hcell
  have hold : ∀ {q c'}, u.Reaches x q c' → (u.allocate x c).Reaches x q c' := Reaches.allocate hcell hr
  have hroom := h.avail_le_of_inner hc hp hr hinner
  have hsize := h.size_le_avail
  have hlast : u.avail + 1 ≤ 2 * x.size - 1 := by
    have := x.two_le_size
    omega
  have hchild : ∀ b, (u.allocate x c).readCell x (childCell b u.avail) = none := fun b => by
    rw [hread, if_neg (h.ne_childCell hp b le_rfl).symm, h.fresh b _ le_rfl]
  refine ⟨shaped_allocate h.shaped c, h.registers.trans (u.allocate_sameRegisters c),
    Nat.le_succ_of_le hsize, hlast,
    ?fresh, ?owned, ?path_unique, ?empty, ?symbol, ?node⟩
  case fresh =>
    intro b d hd
    have hle : u.avail ≤ d := Nat.le_of_succ_le hd
    rw [hread, if_neg (h.ne_childCell hp b hle).symm, h.fresh b d hle]
  case owned =>
    intro d hd hlt
    rcases Nat.lt_succ_iff_lt_or_eq.mp hlt with hlt | rfl
    · obtain ⟨q, c', hq, hd'⟩ := h.owned d hd hlt
      refine ⟨q, c', hold hq, ?_⟩
      rw [hread, if_neg, hd']
      rintro rfl
      rw [hr] at hd'
      cases hd'
    · exact ⟨p, c, hold hp, by rw [hread, if_pos rfl]⟩
  case path_unique =>
    intro q q' c' hq hq'
    rcases h.reaches_allocate hp hr hq with hq | ⟨q₀, b, rfl, rfl, hq₀⟩
    · rcases h.reaches_allocate hp hr hq' with hq' | ⟨q₀', b', -, rfl, -⟩
      · exact h.path_unique _ _ _ hq hq'
      · exact absurd rfl (h.ne_childCell hq b' le_rfl)
    · rcases h.reaches_allocate hp hr hq' with hq' | ⟨q₀', b', rfl, hb, hq₀'⟩
      · exact absurd rfl (h.ne_childCell hq' b le_rfl)
      · rw [h.path_unique _ _ _ hq₀ hq₀', (childCell_inj.mp hb).1]
  case empty =>
    intro q c' hq hnone s hs hcoded hcomp
    rcases h.reaches_allocate hp hr hq with hq | ⟨q₀, b, rfl, -, hq₀⟩
    · rw [hread] at hnone
      split at hnone
      · cases hnone
      · exact h.empty _ _ hq hnone s hs hcoded hcomp
    · refine h.empty _ _ hq₀ hr s hs hcoded ?_
      have hpre : q₀ <+: q₀ ++ [b] := List.prefix_append _ _
      rcases hcomp with hcomp | hcomp
      · exact List.prefix_or_prefix_of_prefix hcomp hpre
      · exact .inr (hpre.trans hcomp)
  case symbol =>
    intro q c' s hq hs hlt
    rcases h.reaches_allocate hp hr hq with hq | ⟨q₀, b, -, rfl, -⟩
    · rw [hread] at hs
      split at hs
      · cases hs
        omega
      · exact h.symbol _ _ _ hq hs hlt
    · rw [hchild] at hs
      cases hs
  case node =>
    intro q c' d hq hd hle
    rcases h.reaches_allocate hp hr hq with hold₀ | ⟨q₀, b, -, rfl, -⟩
    · rw [hread] at hd
      split at hd
      next heq =>
        cases hd
        rw [h.path_unique _ _ _ hold₀ (heq ▸ hp)]
        exact ⟨Nat.lt_succ_self _, hinner⟩
      · obtain ⟨hlt, hin⟩ := h.node _ _ _ hold₀ hd hle
        exact ⟨Nat.lt_succ_of_lt hlt, hin⟩
    · rw [hchild] at hd
      cases hd

/-! ## A symbol is entered (R160, R161) -/

/-- Entering symbol v in every cell along its code, and in no other, makes the table hold the codes below v + 1. -/
theorem enter_symbol (h : HoldsCodes x u₀ v u) (hc : CompleteLengths u₀.lens) (hv : 0 < u₀.lens.getD v 0)
    (hway : ∀ p c, u.Reaches x p c → p <+: codeBits u₀.lens v → p ≠ codeBits u₀.lens v → u.readCell x c ≠ none)
    (hshaped : u'.shaped x) (hreg : u.sameRegisters u') (havail : u'.avail = u.avail)
    (hfresh : ∀ b d, u.avail ≤ d → u'.readCell x (childCell b d) = u.readCell x (childCell b d))
    (hread : ∀ p c, u.Reaches x p c →
      u'.readCell x c = if codeBits u₀.lens v <+: p then some v else u.readCell x c) :
    HoldsCodes x u₀ (v + 1) u' := by
  have hvN : v < x.size := h.length_lens ▸ lt_length_of_coded hv
  have hkeep : ∀ p c d, u.Reaches x p c → x.size ≤ d → u.readCell x c = some d → u'.readCell x c = some d := by
    intro p c d hp hd hr
    rw [hread p c hp, if_neg ((h.node _ _ _ hp hr hd).2.not_code_prefix hc hv), hr]
  have hnew : ∀ {p c}, u.Reaches x p c → u'.Reaches x p c := fun hp => hp.mono hkeep
  have hold : ∀ {p c}, u'.Reaches x p c → u.Reaches x p c := by
    intro p c hp
    induction hp with
    | table hj => exact .table hj
    | child b _ hr hd ih =>
      rw [hread _ _ ih] at hr
      split at hr
      · cases hr
        omega
      · exact .child b ih hr hd
  refine ⟨hshaped, h.registers.trans hreg, havail ▸ h.size_le_avail, havail ▸ h.avail_le, ?fresh, ?owned,
    fun p q c hp hq => h.path_unique p q c (hold hp) (hold hq), ?empty, ?symbol, ?node⟩
  case fresh =>
    intro b d hd
    rw [havail] at hd
    rw [hfresh b d hd, h.fresh b d hd]
  case owned =>
    intro d hd hlt
    obtain ⟨p, c, hp, hr⟩ := h.owned d hd (havail ▸ hlt)
    exact ⟨p, c, hnew hp, hkeep p c d hp hd hr⟩
  case empty =>
    intro p c hp hnone s hs hcoded
    have hp := hold hp
    rw [hread p c hp] at hnone
    split at hnone
    · cases hnone
    next hnot =>
      rcases Nat.lt_succ_iff_lt_or_eq.mp hs with hs | rfl
      · exact h.empty p c hp hnone s hs hcoded
      · rintro (hpre | hpre)
        · exact hnot hpre
        · exact hway p c hp hpre (fun heq => hnot (heq ▸ List.prefix_rfl)) hnone
  case symbol =>
    intro p c s hp hs hlt
    have hp := hold hp
    rw [hread p c hp] at hs
    split at hs
    next hpre =>
      cases hs
      exact ⟨Nat.lt_succ_self v, hv, hpre⟩
    · obtain ⟨hlt, hcoded, hpre⟩ := h.symbol p c s hp hs hlt
      exact ⟨Nat.lt_succ_of_lt hlt, hcoded, hpre⟩
  case node =>
    intro p c d hp hd hle
    have hp := hold hp
    rw [hread p c hp] at hd
    split at hd
    · cases hd
      omega
    · rw [havail]
      exact h.node p c d hp hd hle

/-- A symbol without a code is skipped. -/
theorem skip_symbol (h : HoldsCodes x u₀ v u) (hv : u₀.lens.getD v 0 = 0) : HoldsCodes x u₀ (v + 1) u := by
  refine { h with empty := ?_, symbol := ?_ }
  · intro p c hp hr s hs hcoded
    have hne : s ≠ v := by
      rintro rfl
      omega
    exact h.empty p c hp hr s (by omega) hcoded
  · intro p c s hp hr hlt
    obtain ⟨hs, hcoded, hpre⟩ := h.symbol p c s hp hr hlt
    exact ⟨Nat.lt_succ_of_lt hs, hcoded, hpre⟩

end TableUnit.HoldsCodes

end Sys2Proof.Machine
end

section
/-! Proofs about the parts of HT.BUILD in order (41_huffman_table.md R158 to R161), and the build of a complete length
set. -/

namespace Sys2Proof.Machine

section
variable {x : Alphabet} {u₀ u u' : TableUnit} {v d : Nat} {p : List Bool} {c : CellRef}

/-! ## Part 3, clear (R158) -/

theorem getD_replicate_none (n i : Nat) : (List.replicate n (none : Entry)).getD i none = none := by
  simp only [List.getD_eq_getElem?_getD, List.getElem?_replicate]
  split <;> rfl

@[simp] theorem TableUnit.readCell_cleared (x : Alphabet) (u : TableUnit) (c : CellRef) :
    (u.cleared x).readCell x c = none := by
  cases c <;> simp only [TableUnit.readCell, TableUnit.cleared, getD_replicate_none, ite_self]

theorem TableUnit.shaped_cleared (hlen : u.len.length = x.size) (hle : ∀ l ∈ u.lens, l ≤ 16) :
    (u.cleared x).shaped x :=
  ⟨hlen, List.length_replicate, List.length_replicate, List.length_replicate, hle⟩

/-- The cleared table holds no code yet. -/
theorem TableUnit.holdsCodes_cleared (hlen : u.len.length = x.size) (hle : ∀ l ∈ u.lens, l ≤ 16) :
    TableUnit.HoldsCodes x (u.cleared x) 0 (u.cleared x) := by
  have havail : (u.cleared x).avail = x.size := rfl
  refine ⟨TableUnit.shaped_cleared hlen hle, ⟨rfl, rfl, rfl⟩, le_rfl, ?_, fun _ _ _ => readCell_cleared x u _, ?_, ?_,
    fun _ _ _ _ _ hs => absurd hs (Nat.not_lt_zero _), ?_, ?_⟩
  · have := x.two_le_size
    omega
  · intro d hd hlt
    omega
  · intro p q c hp hq
    rcases hp.cases_path with ⟨j, hj, rfl, rfl⟩ | ⟨_, _, _, _, -, -, -, hr, -⟩
    · rcases hq.cases_path with ⟨j', hj', rfl, hc⟩ | ⟨_, _, _, _, -, -, -, hr, -⟩
      · rw [CellRef.table.inj hc]
      · simp at hr
    · simp at hr
  · intro p c s _ hr
    simp at hr
  · intro p c d _ hr
    simp at hr

/-! ## Part 4, start offsets (R159) -/

/-- Before symbol v, start[l] is the code of the next symbol of length l. -/
def StartsAt (lens : List Nat) (v : Nat) (start : List Nat) : Prop :=
  start.length = 18 ∧
    ∀ l, 0 < l → l ≤ 16 → start.getD l 0 = firstCode lens l + lengthCount (lens.take v) l * 2 ^ (16 - l)

theorem startsAt_startOffsets (lens : List Nat) : StartsAt lens 0 (startOffsets lens) := by
  refine ⟨by simp [startOffsets], fun l _ hl => ?_⟩
  have hlt : l < 18 := by omega
  simp [startOffsets, lengthCount, hlt]

namespace StartsAt

variable {lens start : List Nat}

theorem getD_eq_canonicalCode (h : StartsAt lens v start) (hc : CompleteLengths lens) (hv : 0 < lens.getD v 0) :
    start.getD (lens.getD v 0) 0 = canonicalCode lens v := by
  obtain ⟨-, hstart⟩ := h
  exact hstart _ hv (hc.getD_le v)

/-- Part 5 counts a coded symbol. -/
theorem set_next (h : StartsAt lens v start) (hc : CompleteLengths lens) (hv : 0 < lens.getD v 0) :
    StartsAt lens (v + 1)
      (start.set (lens.getD v 0) (canonicalCode lens v + 2 ^ (16 - lens.getD v 0))) := by
  obtain ⟨hlen, hstart⟩ := h
  refine ⟨by rw [List.length_set, hlen], fun l hpos hl => ?_⟩
  have hlt : lens.getD v 0 < start.length := by
    have := hc.getD_le v
    omega
  rw [lengthCount_take_succ (lt_length_of_coded hv), getD_set hlt]
  by_cases heq : lens.getD v 0 = l
  · subst heq
    rw [if_pos rfl, if_pos rfl, canonicalCode, add_mul, one_mul, add_assoc]
  · rw [if_neg (Ne.symm heq), if_neg heq, add_zero, hstart l hpos hl]

/-- A symbol without a code is not counted. -/
theorem skip_next (h : StartsAt lens v start) (hv : v < lens.length) (h0 : lens.getD v 0 = 0) :
    StartsAt lens (v + 1) start := by
  obtain ⟨hlen, hstart⟩ := h
  refine ⟨hlen, fun l hpos hl => ?_⟩
  rw [hstart l hpos hl, lengthCount_take_succ hv, if_neg (by omega), add_zero]

end StartsAt

/-! ## Part 5a, a code that fits the flat table (R160) -/

theorem getD_fillEntries {table : List Entry} {j : Nat} (base n v : Nat) (hj : j < table.length) :
    (fillEntries base n v table).getD j none =
      if base ≤ j ∧ j < base + n then some v else table.getD j none := by
  simp only [fillEntries, List.getD_eq_getElem?_getD, List.append_assoc, List.getElem?_append, List.length_take,
    List.length_replicate, List.getElem?_take, List.getElem?_replicate, List.getElem?_drop]
  by_cases hbase : base ≤ j
  · by_cases hend : j < base + n
    · rw [if_neg (by omega), if_pos (by omega), if_pos (by omega), if_pos ⟨hbase, hend⟩, Option.getD_some]
    · rw [if_neg (by omega), if_neg (by omega), if_neg (by omega)]
      congr 2
      omega
  · rw [if_pos (by omega), if_pos (by omega), if_neg (by omega)]

theorem length_fillEntries (base n v : Nat) (table : List Entry) :
    (fillEntries base n v table).length = table.length := by
  simp only [fillEntries, List.length_append, List.length_take, List.length_replicate, List.length_drop]
  omega

/-- The entries that R160 fills are those whose index begins with the code. -/
theorem codeBits_prefix_index_iff {lens : List Nat} (hc : CompleteLengths lens) (hv : 0 < lens.getD v 0)
    (hl : lens.getD v 0 ≤ x.tableBits) {j : Nat} (hj : j < 2 ^ x.tableBits) :
    codeBits lens v <+: bitsOf x.tableBits j ↔
      canonicalCode lens v / 2 ^ (16 - x.tableBits) ≤ j ∧
        j < canonicalCode lens v / 2 ^ (16 - x.tableBits) + 2 ^ (x.tableBits - lens.getD v 0) := by
  obtain ⟨a, ha, hK, hbits⟩ := hc.exists_codeValue hv
  have hle := x.tableBits_le
  have hsplit : lens.getD v 0 + (x.tableBits - lens.getD v 0) = x.tableBits := by omega
  have hbase : canonicalCode lens v / 2 ^ (16 - x.tableBits) = a * 2 ^ (x.tableBits - lens.getD v 0) := by
    rw [hK, show 16 - lens.getD v 0 = (x.tableBits - lens.getD v 0) + (16 - x.tableBits) by omega, pow_add, ← mul_assoc,
      Nat.mul_div_cancel _ (Nat.two_pow_pos _)]
  have hiff := bitsOf_prefix_iff (m := x.tableBits - lens.getD v 0) ha (hsplit.symm ▸ hj)
  rwa [hsplit, ← hbits, ← hbase] at hiff

namespace TableUnit.HoldsCodes

theorem fill (h : HoldsCodes x u₀ v u) (hc : CompleteLengths u₀.lens) (hv : 0 < u₀.lens.getD v 0)
    (hl : u₀.lens.getD v 0 ≤ x.tableBits) :
    HoldsCodes x u₀ (v + 1) { u with
      table := fillEntries (canonicalCode u₀.lens v / 2 ^ (16 - x.tableBits))
        (2 ^ (x.tableBits - u₀.lens.getD v 0)) v u.table } := by
  obtain ⟨hlen, htable, hleft, hright, hlens⟩ := h.shaped
  have hshort : ∀ {p c}, u.Reaches x p c → (codeBits u₀.lens v).length ≤ p.length := fun hp => by
    rw [hc.length_codeBits]
    exact hl.trans hp.tableBits_le_length
  refine h.enter_symbol hc hv ?_ ⟨hlen, (length_fillEntries _ _ _ _).trans htable, hleft, hright, hlens⟩
    ⟨rfl, rfl, rfl⟩ rfl (fun b d _ => readCell_childCell_table _ b) ?_
  · intro p c hp hpre hne
    exact absurd (hpre.eq_of_length_le (hshort hp)) hne
  · intro p c hp
    rcases hp.cases_path with ⟨j, hj, rfl, rfl⟩ | ⟨q, b, c₀, d, rfl, rfl, hq, hr, hd⟩
    · simp only [TableUnit.readCell, getD_fillEntries _ _ _ (htable.symm ▸ hj), codeBits_prefix_index_iff hc hv hl hj]
    · obtain ⟨-, hinner⟩ := h.node _ _ _ hq hr hd
      have hnot : ¬ codeBits u₀.lens v <+: q ++ [b] := by
        rw [List.prefix_concat_iff, not_or]
        refine ⟨fun heq => ?_, hinner.not_code_prefix hc hv⟩
        have := heq ▸ hshort hq
        simp at this
      rw [if_neg hnot, readCell_childCell_table]

/-! ## Part 5b, a longer code (R161) -/

/-- The leaf: the walk of v's code has come to its cell, and `*cell <- v`. -/
theorem leaf (h : HoldsCodes x u₀ v u) (hc : CompleteLengths u₀.lens) (hv : 0 < u₀.lens.getD v 0)
    (hp : u.Reaches x (codeBits u₀.lens v) c) : HoldsCodes x u₀ (v + 1) (u.writeCell x c (some v)) := by
  have hread := readCell_writeCell (h.hasCell hp) (some v)
  refine h.enter_symbol hc hv ?_ (shaped_writeCell h.shaped c _) (u.writeCell_sameRegisters c _)
    (u.writeCell_avail c _) ?_ ?_
  · intro q c' hq hpre hne hnone
    obtain ⟨d, -, hr⟩ := hp.node_of_prefix hq hpre hne
    rw [hnone] at hr
    cases hr
  · intro b d hd
    rw [hread, if_neg (h.ne_childCell hp b hd).symm]
  · intro q c' hq
    rw [hread]
    refine if_congr ⟨?_, fun hpre => ?_⟩ rfl rfl
    · rintro rfl
      rw [h.path_unique _ _ _ hq hp]
    · by_cases heq : codeBits u₀.lens v = q
      · exact hq.cell_unique (heq ▸ hp)
      · obtain ⟨d, hd, hr⟩ := hq.node_of_prefix hp hpre heq
        obtain ⟨-, hinner⟩ := h.node _ _ _ hp hr hd
        exact absurd List.prefix_rfl (hinner.not_code_prefix hc hv)

/-- No symbol stands where a longer code goes on. -/
theorem node_of_inner (h : HoldsCodes x u₀ v u) (hc : CompleteLengths u₀.lens) (hp : u.Reaches x p c)
    (hinner : InnerPath u₀.lens p) (hr : u.readCell x c = some d) : x.size ≤ d := by
  by_contra hlt
  obtain ⟨-, hcoded, hpre⟩ := h.symbol _ _ _ hp hr (not_le.mp hlt)
  exact hinner.not_code_prefix hc hcoded hpre

end TableUnit.HoldsCodes

theorem innerPath_take {lens : List Nat} (hc : CompleteLengths lens) (hd : d < lens.getD v 0) :
    InnerPath lens ((codeBits lens v).take d) := by
  refine ⟨v, by omega, List.take_prefix _ _, fun h => ?_⟩
  have hlen := congrArg List.length h
  rw [List.length_take, hc.length_codeBits] at hlen
  omega

theorem getElem?_bitsOf {n w i : Nat} (hi : i < n) : (bitsOf n w)[i]? = some (w.testBit (n - (i + 1))) := by
  induction n generalizing i with
  | zero => omega
  | succ n ih =>
    cases i with
    | zero => rfl
    | succ i => rw [bitsOf, List.getElem?_cons_succ, ih (by omega), Nat.add_sub_add_right]

/-- The walk's next bit (R161: d-th bit k[16-d]). -/
theorem take_succ_codeBits {lens : List Nat} (hc : CompleteLengths lens) (hd : d < lens.getD v 0) :
    (codeBits lens v).take (d + 1) =
      (codeBits lens v).take d ++ [(canonicalCode lens v).testBit (16 - (d + 1))] := by
  have hle := hc.getD_le v
  rw [List.take_add_one, codeBits, List.getElem?_take_of_lt hd, getElem?_bitsOf (by omega)]
  rfl

theorem insertWalk_some {k rem node : Nat} (hr : u.readCell x c = some node) :
    insertWalk x k (rem + 1) d c u =
      insertWalk x k rem (d + 1) (childCell (k.testBit (16 - (d + 1))) node) u := by
  simp only [insertWalk, hr, childCell]

theorem insertWalk_none {k rem : Nat} (hr : u.readCell x c = none) (hroom : u.avail ≤ 2 * x.size - 2) :
    insertWalk x k (rem + 1) d c u =
      insertWalk x k rem (d + 1) (childCell (k.testBit (16 - (d + 1))) u.avail) (u.allocate x c) := by
  simp only [insertWalk, hr, childCell, TableUnit.allocate, if_neg (not_lt.mpr hroom)]

/-- The walk of symbol v's code comes to the cell of that code, with no fault (R163). -/
theorem insertWalk_reaches (hc : CompleteLengths u₀.lens) {rem : Nat} (h : TableUnit.HoldsCodes x u₀ v u)
    (hrem : d + rem = u₀.lens.getD v 0) (hp : u.Reaches x ((codeBits u₀.lens v).take d) c) :
    ∃ c' u', insertWalk x (canonicalCode u₀.lens v) rem d c u = .ok (c', u') ∧ TableUnit.HoldsCodes x u₀ v u' ∧
      u'.Reaches x (codeBits u₀.lens v) c' := by
  induction rem generalizing d c u with
  | zero =>
    rw [List.take_of_length_le (by rw [hc.length_codeBits]; omega)] at hp
    exact ⟨c, u, rfl, h, hp⟩
  | succ rem ih =>
    have hinner := innerPath_take (v := v) hc (show d < u₀.lens.getD v 0 by omega)
    have hbits := take_succ_codeBits (v := v) hc (show d < u₀.lens.getD v 0 by omega)
    cases hr : u.readCell x c with
    | some node =>
      rw [insertWalk_some hr]
      exact ih h (by omega) (hbits ▸ .child _ hp hr (h.node_of_inner hc hp hinner hr))
    | none =>
      rw [insertWalk_none hr (h.avail_le_of_inner hc hp hr hinner)]
      have hcell := h.hasCell hp
      have hnew : (u.allocate x c).readCell x c = some u.avail := by
        rw [TableUnit.readCell_allocate hcell, if_pos rfl]
      exact ih (h.allocate hc hp hr hinner) (by omega)
        (hbits ▸ .child _ (.allocate hcell hr hp) hnew h.size_le_avail)

/-! ## Part 5 -/

/-- Part 5 for one coded symbol. -/
theorem assignCode_holdsCodes (hc : CompleteLengths u₀.lens) (h : TableUnit.HoldsCodes x u₀ v u)
    (hv : 0 < u₀.lens.getD v 0) :
    ∃ u', assignCode x v (u₀.lens.getD v 0) (canonicalCode u₀.lens v) u = .ok u' ∧
      TableUnit.HoldsCodes x u₀ (v + 1) u' := by
  by_cases hl : u₀.lens.getD v 0 ≤ x.tableBits
  · exact ⟨_, if_pos hl, h.fill hc hv hl⟩
  · have hle := x.tableBits_le
    have hslot : canonicalCode u₀.lens v / 2 ^ (16 - x.tableBits) < 2 ^ x.tableBits := by
      refine Nat.div_lt_of_lt_mul ?_
      rw [← pow_add, Nat.sub_add_cancel hle]
      exact hc.canonicalCode_lt hv
    have hpath : (codeBits u₀.lens v).take x.tableBits =
        bitsOf x.tableBits (canonicalCode u₀.lens v / 2 ^ (16 - x.tableBits)) := by
      rw [codeBits, List.take_take, min_eq_left (by omega), ← take_bitsOf, Nat.add_sub_cancel' hle]
    have hp : u.Reaches x ((codeBits u₀.lens v).take x.tableBits)
        (.table (canonicalCode u₀.lens v / 2 ^ (16 - x.tableBits))) := hpath ▸ .table hslot
    obtain ⟨c, u', hwalk, h', hp'⟩ := insertWalk_reaches hc h (Nat.add_sub_cancel' (not_le.mp hl).le) hp
    exact ⟨u'.writeCell x c (some v), by simp only [assignCode, if_neg hl, hwalk], h'.leaf hc hv hp'⟩

/-- Part 5 for the symbols from v on. -/
theorem assignAll_holdsCodes (hc : CompleteLengths u₀.lens) {rest start : List Nat} (hrest : u₀.lens.drop v = rest)
    (hstart : StartsAt u₀.lens v start) (h : TableUnit.HoldsCodes x u₀ v u) :
    ∃ u', assignAll x rest v start u = .ok u' ∧ TableUnit.HoldsCodes x u₀ (v + rest.length) u' := by
  induction rest generalizing v start u with
  | nil => exact ⟨u, rfl, h⟩
  | cons l rest ih =>
    have hv : v < u₀.lens.length := by
      by_contra hge
      rw [List.drop_eq_nil_of_le (not_lt.mp hge)] at hrest
      cases hrest
    rw [List.drop_eq_getElem_cons hv, List.cons.injEq, ← List.getD_eq_getElem _ 0 hv] at hrest
    obtain ⟨rfl, hrest⟩ := hrest
    rw [List.length_cons, add_comm rest.length, ← add_assoc]
    by_cases h0 : u₀.lens.getD v 0 = 0
    · rw [assignAll, if_pos h0]
      exact ih hrest (hstart.skip_next hv h0) (h.skip_symbol h0)
    · have hcoded := Nat.pos_of_ne_zero h0
      obtain ⟨u', hassign, h'⟩ := assignCode_holdsCodes hc h hcoded
      simp only [assignAll, if_neg h0, hstart.getD_eq_canonicalCode hc hcoded, hassign]
      exact ih hrest (hstart.set_next hc hcoded) h'

/-! ## The whole build -/

/-- HT.BUILD on a complete length set: the next state differs in the unit only, which holds every code. -/
theorem exec_htBuild_of_complete {s : State} (hlen : (s.unit x).len.length = x.size)
    (hc : CompleteLengths (s.unit x).lens) :
    ∃ u, exec (.htBuild x) s = .next (s.setUnit x u) ∧
      TableUnit.HoldsCodes x ((s.unit x).cleared x) x.size u := by
  have hbound : lengthAbove16 (s.unit x).lens = none := by
    refine List.find?_eq_none.mpr fun l hl => ?_
    simpa using hc.le_maxLen l hl
  have htotal : codeSpaceTotal (s.unit x).lens = Config.codeSpace := by rw [codeSpaceTotal_eq_firstCode, hc.total]
  have hsize : (s.unit x).lens.length = x.size := by rw [TableUnit.lens, List.length_map, hlen]
  obtain ⟨u, hassign, h⟩ :
      ∃ u, assignAll x (s.unit x).lens 0 (startOffsets (s.unit x).lens) ((s.unit x).cleared x) = .ok u ∧
        TableUnit.HoldsCodes x ((s.unit x).cleared x) (0 + (s.unit x).lens.length) u :=
    assignAll_holdsCodes (u₀ := (s.unit x).cleared x) hc rfl (startsAt_startOffsets _)
      (TableUnit.holdsCodes_cleared hlen hc.le_maxLen)
  have hbuild : buildTable x s = .ok () (s.setUnit x u) := by
    simp only [buildTable, hbound, htotal, hassign, ne_eq, not_true_eq_false, if_false]
  refine ⟨u, congrArg Res.toOutcome hbuild, ?_⟩
  rwa [Nat.zero_add, hsize] at h

namespace TableUnit.HoldsCodes

/-- R162(a), (b): when every symbol is in, no cell that a path reaches is NIL. -/
theorem ne_none (h : HoldsCodes x u₀ x.size u) (hc : CompleteLengths u₀.lens) (hp : u.Reaches x p c)
    (hlen : p.length ≤ 16) : u.readCell x c ≠ none := by
  intro hnone
  obtain ⟨s, hs, hcomp⟩ := hc.exists_comparable_code hlen
  exact h.empty _ _ hp hnone s (h.length_lens ▸ lt_length_of_coded hs) hs hcomp

theorem table_ne_none (h : HoldsCodes x u₀ x.size u) (hc : CompleteLengths u₀.lens) : ∀ e ∈ u.table, e ≠ none := by
  intro e he
  obtain ⟨j, hj, rfl⟩ := List.getElem_of_mem he
  obtain ⟨-, htable, -⟩ := h.shaped
  have hcell := h.ne_none hc (.table (htable ▸ hj)) (by simpa using x.tableBits_le)
  rwa [TableUnit.readCell, List.getD_eq_getElem _ _ hj] at hcell

theorem child_ne_none (h : HoldsCodes x u₀ x.size u) (hc : CompleteLengths u₀.lens) (hd : x.size ≤ d)
    (hlt : d < u.avail) (b : Bool) : u.readCell x (childCell b d) ≠ none := by
  obtain ⟨p, c, hp, hr⟩ := h.owned d hd hlt
  obtain ⟨-, hinner⟩ := h.node _ _ _ hp hr hd
  refine h.ne_none hc (.child b hp hr hd) ?_
  have := hinner.length_lt hc
  simp
  omega

end TableUnit.HoldsCodes

end

/-! ## The obligation -/

/-- Settles O5: after every symbol the table holds the codes of the symbols so far (HoldsCodes); a node always is left
because nodes are inner paths of the code tree, fewer than the symbols; and at the end no reachable cell is NIL because
the code is complete. -/
theorem htBuildAcceptsCompleteLengths : Obligations.HtBuildAcceptsCompleteLengths := by
  intro x s hlen hle hweight
  have hc := completeLengths_of_weight hle hweight
  obtain ⟨u, hexec, h⟩ := exec_htBuild_of_complete hlen hc
  obtain ⟨hkept, hconstV, hconstSym⟩ := h.registers
  exact ⟨u, hexec, hkept, hconstV, hconstSym, h.shaped, h.table_ne_none hc, h.size_le_avail, h.avail_le,
    fun d hd hlt => ⟨h.child_ne_none hc hd hlt false, h.child_ne_none hc hd hlt true⟩⟩

end Sys2Proof.Machine
end

section
/-! Proofs about the block header (42_lh5_block_header.md): LH5.BLKCNT, and LH5.HDR as its four parts. Each part goes on
with STATE as it was, or raises (60_exceptions.md R350); so the STATE in which a part ends tells LH5.HDR's way on. -/

namespace Sys2Proof.Machine

/-! ## LH5.BLKCNT (R193) -/

theorem blockCountPart_eq (s : State) :
    blockCountPart s = { s with blockCount := BitVec.ofNat 16 (s.fieldValue 16), bitpos := s.bitpos + 16 } := by
  rw [← State.peek_eq_fieldValue]
  rfl

/-- Settles O9: GET(16) is the value of the field at the cursor, and CONSUME's record update names BITPOS alone. -/
theorem blkcntReadsSixteenBits : Obligations.BlkcntReadsSixteenBits :=
  fun s => congrArg Host.Outcome.next (blockCountPart_eq s)

/-! ## Going on or raising -/

/-- The part goes on with STATE = q, or it ends the whole operation with STATE = FAULT; the model does not stop. -/
inductive Res.KeepsStateOrRaises {α : Type} (q : JobState) : Res α → Prop
  | ok {a : α} {t : State} (h : t.state = q) : KeepsStateOrRaises q (.ok a t)
  | ended {t : State} (h : t.state = .fault) : KeepsStateOrRaises q (.ended t)

namespace Res.KeepsStateOrRaises

variable {α β : Type} {q : JobState}

theorem raise (c : Cause) (s : State) : (Machine.raise c s : Res α).KeepsStateOrRaises q := .ended (s.faulted_state c)

theorem bind {r : Res α} {f : α → State → Res β} (h : r.KeepsStateOrRaises q)
    (hf : ∀ a t, t.state = q → (f a t).KeepsStateOrRaises q) : (r.bind f).KeepsStateOrRaises q := by
  cases h with
  | ok ht => exact hf _ _ ht
  | ended ht => exact .ended ht

theorem eq_ok_of_run {r : Res Unit} {t : State} (h : r.KeepsStateOrRaises q) (ht : r.toOutcome = .next t)
    (hrun : t.state = .run) : r = .ok () t := by
  rcases Res.toOutcome_eq_next.mp ht with rfl | rfl
  · rfl
  · cases h with
    | ended hfault => cases hrun.symm.trans hfault

theorem eq_ended_of_fault {r : Res Unit} {t : State} (h : r.KeepsStateOrRaises .run) (ht : r.toOutcome = .next t)
    (hfault : t.state = .fault) : r = .ended t := by
  rcases Res.toOutcome_eq_next.mp ht with rfl | rfl
  · cases h with
    | ok hrun => cases hrun.symm.trans hfault
  · rfl

end Res.KeepsStateOrRaises

/-! ## The parts keep STATE or raise -/

section
variable {q : JobState} {s : State}

theorem lengthCode_keepsStateOrRaises (hs : s.state = q) : (lengthCode s).KeepsStateOrRaises q := by
  rcases lengthCode_cases s with ⟨-, e⟩ | ⟨-, e⟩ <;> rw [e]
  · exact .ok hs
  · exact .raise _ _

theorem constTable_keepsStateOrRaises (x : Alphabet) (c : Nat) (hs : s.state = q) :
    (constTable x c s).KeepsStateOrRaises q := by
  rcases constTable_cases x c s with ⟨-, e⟩ | ⟨-, e⟩ <;> rw [e]
  · exact .ok ((s.setUnit_state x _).trans hs)
  · exact .raise _ _

theorem buildTable_keepsStateOrRaises (x : Alphabet) (hs : s.state = q) : (buildTable x s).KeepsStateOrRaises q := by
  rcases buildTable_cases x s with ⟨_, -, e⟩ | ⟨-, -, e⟩ | ⟨-, -, _, -, e⟩ | ⟨-, -, u, -, e⟩ <;> rw [e]
  · exact .raise _ _
  · exact .raise _ _
  · exact .raise _ _
  · exact .ok ((s.setUnit_state x u).trans hs)

theorem decodeSymbol_keepsStateOrRaises (x : Alphabet) (hs : s.state = q) :
    (decodeSymbol x s).KeepsStateOrRaises q := by
  rcases decodeSymbol_cases x s with ⟨-, e⟩ | ⟨-, _, -, e⟩ | ⟨-, -, -, e⟩ <;> rw [e] <;> exact .ok hs

theorem zeroRun_keepsStateOrRaises (i run : Nat) (hs : s.state = q) : (zeroRun i run s).KeepsStateOrRaises q := by
  rcases zeroRun_cases i run s with ⟨-, e⟩ | ⟨-, e⟩ <;> rw [e]
  · exact .ok hs
  · exact .raise _ _

theorem cItem_keepsStateOrRaises (t i : Nat) (hs : s.state = q) : (cItem t i s).KeepsStateOrRaises q := by
  unfold cItem
  split_ifs
  · exact zeroRun_keepsStateOrRaises i _ hs
  · exact zeroRun_keepsStateOrRaises i _ hs
  · exact zeroRun_keepsStateOrRaises i _ hs
  · exact .ok ((s.setLen_state .c i _).trans hs)

theorem tLengths_keepsStateOrRaises (n fuel i : Nat) (hs : s.state = q) :
    (tLengths n fuel i s).KeepsStateOrRaises q := by
  induction fuel generalizing i s with
  | zero => exact .ok hs
  | succ fuel ih =>
    unfold tLengths
    split
    · refine (lengthCode_keepsStateOrRaises hs).bind fun l t ht => ?_
      have hset : (t.setLen .t i l).state = q := (t.setLen_state .t i l).trans ht
      dsimp only
      split
      · exact ih _ hset
      · exact ih _ hset
    · exact .ok hs

theorem cLengths_keepsStateOrRaises (n fuel i : Nat) (hs : s.state = q) :
    (cLengths n fuel i s).KeepsStateOrRaises q := by
  induction fuel generalizing i s with
  | zero => exact .ok hs
  | succ fuel ih =>
    unfold cLengths
    split_ifs
    · exact (decodeSymbol_keepsStateOrRaises .t hs).bind fun v _ ht =>
        (cItem_keepsStateOrRaises v i ht).bind fun j _ ht' => ih j ht'
    · exact .ok hs

theorem pLengths_keepsStateOrRaises (rem i : Nat) (hs : s.state = q) : (pLengths rem i s).KeepsStateOrRaises q := by
  induction rem generalizing i s with
  | zero => exact .ok hs
  | succ rem ih =>
    exact (lengthCode_keepsStateOrRaises hs).bind fun l t ht => ih (i + 1) ((t.setLen_state .p i l).trans ht)

/-- The shape the three sections share once their count n is read: single-symbol form, count above N, or a loop over the
length codes and then HT.BUILD (R196, R205, R214). -/
theorem section_keepsStateOrRaises (x : Alphabet) (bound n : Nat) {lengths : Res Unit} (hs : s.state = q)
    (hlengths : lengths.KeepsStateOrRaises q) :
    (if n = 0 then constSection x s
      else if bound < n then raise (.malformedTable .count n) s
      else lengths.bind fun _ t => buildTable x t).KeepsStateOrRaises q := by
  split_ifs
  · exact constTable_keepsStateOrRaises x _ hs
  · exact .raise _ _
  · exact hlengths.bind fun _ _ ht => buildTable_keepsStateOrRaises x ht

theorem tSection_keepsStateOrRaises (hs : s.state = q) : (tSection s).KeepsStateOrRaises q :=
  section_keepsStateOrRaises .t _ _ hs (tLengths_keepsStateOrRaises _ _ _ ((State.clearLens_state _ .t).trans hs))

theorem cSection_keepsStateOrRaises (hs : s.state = q) : (cSection s).KeepsStateOrRaises q :=
  section_keepsStateOrRaises .c _ _ hs (cLengths_keepsStateOrRaises _ _ _ ((State.clearLens_state _ .c).trans hs))

theorem pSection_keepsStateOrRaises (hs : s.state = q) : (pSection s).KeepsStateOrRaises q :=
  section_keepsStateOrRaises .p _ _ hs (pLengths_keepsStateOrRaises _ _ ((State.clearLens_state _ .p).trans hs))

end

/-! ## LH5.HDR (R192) -/

theorem exec_lh5Hdr_of_ok {s t : State} (h : blockHeader s = .ok () t) : exec .lh5Hdr s = .next t :=
  Res.toOutcome_eq_next.mpr (.inl h)

theorem exec_lh5Hdr_of_ended {s t : State} (h : blockHeader s = .ended t) : exec .lh5Hdr s = .next t :=
  Res.toOutcome_eq_next.mpr (.inr h)

/-- Settles O20: a part that ends in FAULT has raised and one that ends in RUN has gone on, since in a running job a part
keeps STATE or raises; LH5.HDR is the parts bound one to the next, so it ends or goes on with them. -/
theorem hdrRunsItsParts : Obligations.HdrRunsItsParts := by
  intro s s1 s2 hs hblkcnt htlen
  obtain rfl : blockCountPart s = s1 := Host.Outcome.next.inj hblkcnt
  have hT : (tSection (blockCountPart s)).KeepsStateOrRaises .run := tSection_keepsStateOrRaises hs
  refine ⟨fun hfault => exec_lh5Hdr_of_ended ?_, fun hrun2 s3 hclen => ?_⟩
  · rw [blockHeader, hT.eq_ended_of_fault htlen hfault, Res.bind_ended]
  have eT := hT.eq_ok_of_run htlen hrun2
  have hC : (cSection s2).KeepsStateOrRaises .run := cSection_keepsStateOrRaises hrun2
  refine ⟨fun hfault => exec_lh5Hdr_of_ended ?_, fun hrun3 s4 hplen => ?_⟩
  · rw [blockHeader, eT, Res.bind_ok, hC.eq_ended_of_fault hclen hfault, Res.bind_ended]
  have eC := hC.eq_ok_of_run hclen hrun3
  have hP : (pSection s3).KeepsStateOrRaises .run := pSection_keepsStateOrRaises hrun3
  refine ⟨fun hfault => exec_lh5Hdr_of_ended ?_, fun hrun4 => exec_lh5Hdr_of_ok ?_⟩
  · rw [blockHeader, eT, Res.bind_ok, eC, Res.bind_ok, hP.eq_ended_of_fault hplen hfault, Res.bind_ended]
  · rw [blockHeader, eT, Res.bind_ok, eC, Res.bind_ok, hP.eq_ok_of_run hplen hrun4, Res.bind_ok]

end Sys2Proof.Machine
end

section
/-! Proofs about the Streaming state of the LH5 decoder (43_lh5_streaming.md): EMIT and the literal, the copy engine and
the match, LH5.SYM, and step selection. -/

namespace Sys2Proof.Machine

/-! ## EMIT and LH5.LIT (R234, R236) -/

/-- The state after EMIT(v) within EXPANDED_SIZE (R236). -/
def State.appended (s : State) (v : Byte) : State :=
  { s.memWrite .out s.outCount.toNat v with outCount := s.outCount + 1#32 }

theorem emit_eq_appended (v : Byte) {s : State} (h : s.outCount < s.expandedSize) : emit v s = .ok () (s.appended v) :=
  emit_ok v h

theorem State.appended_frame (s : State) (v : Byte) :
    s.appended v = { s with outMem := (s.appended v).outMem, outCount := s.outCount + 1#32 } := rfl

@[simp] theorem State.appended_outCount (s : State) (v : Byte) : (s.appended v).outCount = s.outCount + 1#32 := rfl

@[simp] theorem State.appended_expandedSize (s : State) (v : Byte) : (s.appended v).expandedSize = s.expandedSize := rfl

@[simp] theorem State.appended_blockCount (s : State) (v : Byte) : (s.appended v).blockCount = s.blockCount := rfl

theorem State.appended_outCount_toNat {s : State} (v : Byte) (h : s.outCount < s.expandedSize) :
    (s.appended v).outCount.toNat = s.outCount.toNat + 1 := by
  rw [State.appended_outCount]
  bv_omega

theorem State.memRead_out_appended (s : State) (v : Byte) (a : Nat) :
    (s.appended v).memRead .out a = if a = s.outCount.toNat then some v else s.memRead .out a := by
  have hwrite := s.memRead_memWrite_out s.outCount.toNat v .out a
  simp only [true_and, eq_comm (b := a)] at hwrite
  exact hwrite

theorem exec_lh5Lit {c : Nat} (hc : c < Config.litLimit) (s : State) :
    exec (.lh5Lit c) s = (literalSymbol c s).toOutcome :=
  if_pos hc

/-- Settles O22: the literal is EMIT of its byte, and below EXPANDED_SIZE EMIT appends that byte. -/
theorem litAppendsByte : Obligations.LitAppendsByte := by
  intro s c hc hroom
  refine ⟨s.appended (BitVec.ofNat 8 c), ?_, s.appended_frame _, s.memRead_out_appended _⟩
  rw [exec_lh5Lit hc, literalSymbol, emit_eq_appended _ hroom, Res.toOutcome]

/-! ## LH5.DIST inside a match (R239) -/

theorem distance_of_codeAt {s : State} {p w : Nat} (h : s.codeAt .p p w) :
    distance s = .ok (s.distanceAt p w) { s with bitpos := s.bitpos + w + (p - 1) } := by
  rw [distance_of_symbol (decodeSymbol_of_codeAt h), State.peek_eq_fieldValue]
  rfl

/-- Whatever table P gives, LH5.DIST goes on with STATE as it was. -/
theorem distance_ok (s : State) : ∃ d t, distance s = .ok d t ∧ t.state = s.state := by
  obtain ⟨p, u, e, hu⟩ : ∃ p u, decodeSymbol .p s = .ok p u ∧ u.state = s.state := by
    rcases decodeSymbol_cases .p s with ⟨-, e⟩ | ⟨-, _, -, e⟩ | ⟨-, -, -, e⟩ <;> exact ⟨_, _, e, rfl⟩
  exact ⟨_, _, distance_of_symbol e, hu⟩

/-! ## COPY (R240, R242) -/

/-- What COPY of k bytes from offset back leaves in state t when it starts in state s: k bytes more, or fewer at
EXPANDED_SIZE, each equal to the byte offset cells before it in t itself; nothing else has changed. -/
structure State.CopiedTo (offset k : Nat) (s t : State) : Prop where
  frame : t = { s with outMem := t.outMem, outCount := t.outCount }
  outCount : t.outCount.toNat = min (s.outCount.toNat + k) s.expandedSize.toNat
  below : ∀ a, a < s.outCount.toNat → t.memRead .out a = s.memRead .out a
  copied : ∀ a, s.outCount.toNat ≤ a → a < t.outCount.toNat → t.memRead .out a = t.memRead .out (a - offset)
  above : ∀ a, t.outCount.toNat ≤ a → t.memRead .out a = s.memRead .out a

/-- A copy that adds no byte: none was asked for, or OUT_COUNT = EXPANDED_SIZE. -/
theorem State.CopiedTo.refl {offset k : Nat} {s : State}
    (h : s.outCount.toNat = min (s.outCount.toNat + k) s.expandedSize.toNat) : s.CopiedTo offset k s where
  frame := rfl
  outCount := h
  below _ _ := rfl
  copied _ hle hlt := absurd hlt (Nat.not_lt.mpr hle)
  above _ _ := rfl

/-- One byte appended from offset back, and then a copy of k more. As offset is at least 1, the source cell lies below
the byte appended, so what follows changes neither. -/
theorem State.CopiedTo.append {offset k : Nat} {s t : State} {v : Byte} (hpos : 0 < offset)
    (hoff : offset ≤ s.outCount.toNat) (hroom : s.outCount < s.expandedSize)
    (hv : s.memRead .out (s.outCount.toNat - offset) = some v) (h : (s.appended v).CopiedTo offset k t) :
    s.CopiedTo offset (k + 1) t := by
  obtain ⟨hframe, hcount, hbelow, hcopied, habove⟩ := h
  rw [State.appended_expandedSize] at hcount
  rw [State.appended_outCount_toNat v hroom] at hcount hbelow hcopied
  have hold (a : Nat) (ha : a ≠ s.outCount.toNat) : (s.appended v).memRead .out a = s.memRead .out a := by
    rw [State.memRead_out_appended, if_neg ha]
  refine ⟨hframe, by omega, fun a ha => ?_, fun a hle hlt => ?_, fun a ha => ?_⟩
  · rw [hbelow a (by omega), hold a (by omega)]
  · obtain rfl | hnext := hle.eq_or_lt
    · rw [hbelow _ (by omega), State.memRead_out_appended, if_pos rfl, hbelow _ (by omega), hold _ (by omega), hv]
    · exact hcopied a hnext hlt
  · have hlt : s.outCount.toNat < s.expandedSize.toNat := hroom
    rw [habove a ha, hold a (by omega)]

/-- COPY from within an output whose bytes all have a value. -/
theorem copyBack_copiedTo {offset : Nat} (hpos : 0 < offset) (k : Nat) {s : State} (hoff : offset ≤ s.outCount.toNat)
    (hle : s.outCount.toNat ≤ s.expandedSize.toNat) (hout : ∀ a, a < s.outCount.toNat → s.memRead .out a ≠ none) :
    ∃ t, copyBack offset k s = .ok () t ∧ s.CopiedTo offset k t := by
  induction k generalizing s with
  | zero => exact ⟨s, rfl, .refl (by omega)⟩
  | succ k ih =>
    by_cases hfull : s.outCount = s.expandedSize
    · exact ⟨s, by rw [copyBack, if_pos hfull], .refl (by rw [hfull]; omega)⟩
    have hroom : s.outCount < s.expandedSize := Nat.lt_of_le_of_ne hle (mt BitVec.eq_of_toNat_eq hfull)
    obtain ⟨v, hv⟩ := Option.ne_none_iff_exists'.mp (hout (s.outCount.toNat - offset) (by omega))
    have hnext := State.appended_outCount_toNat v hroom
    have hout' (a : Nat) (ha : a < (s.appended v).outCount.toNat) : (s.appended v).memRead .out a ≠ none := by
      rw [State.memRead_out_appended]
      split_ifs with heq
      · exact Option.some_ne_none v
      · exact hout a (by omega)
    obtain ⟨t, hcopy, ht⟩ := ih (by omega) (hnext.trans_le hroom) hout'
    refine ⟨t, ?_, ht.append hpos hoff hroom hv⟩
    rw [copyBack, if_neg hfull, hv]
    dsimp only
    rw [emit_eq_appended v hroom, Res.bind_ok, hcopy]

/-- COPY never raises: it goes on, or the model stops. Where it goes on, only OUT and OUT_COUNT have changed. -/
theorem copyBack_cases (offset k : Nat) (s : State) :
    (∃ t, copyBack offset k s = .ok () t ∧ t = { s with outMem := t.outMem, outCount := t.outCount }) ∨
    ∃ e, copyBack offset k s = .stop e := by
  induction k generalizing s with
  | zero => exact .inl ⟨s, rfl, rfl⟩
  | succ k ih =>
    rw [copyBack]
    split_ifs
    · exact .inl ⟨s, rfl, rfl⟩
    cases s.memRead .out (s.outCount.toNat - offset) with
    | none => exact .inr ⟨_, rfl⟩
    | some v =>
      rcases emit_cases v s with ⟨-, e⟩ | ⟨-, e⟩ <;> simp only [e, Res.bind_ok, Res.bind_stop]
      · exact ih (s.appended v)
      · exact .inr ⟨_, rfl⟩

/-! ## LH5.MATCH (R238, R241) -/

theorem exec_lh5Match {c : Nat} (hlo : Config.litLimit ≤ c) (hhi : c < Config.symbolsC) (s : State) :
    exec (.lh5Match c) s = (matchSymbol c s).toOutcome :=
  if_neg (by omega)

theorem matchSymbol_of_codeAt {s : State} {p w : Nat} (c : Nat) (h : s.codeAt .p p w) :
    matchSymbol c s =
      if s.outCount.toNat < s.distanceAt p w + 1 then
        raise (.offsetBeforeStart (s.distanceAt p w + 1)) { s with bitpos := s.bitpos + w + (p - 1) }
      else copyBack (s.distanceAt p w + 1) (matchLength c) { s with bitpos := s.bitpos + w + (p - 1) } := by
  rw [matchSymbol, distance_of_codeAt h]
  rfl

/-- All that a match can do to STATE: it goes on with STATE as it was, it raises, or the model stops. -/
theorem matchSymbol_cases (c : Nat) (s : State) :
    (∃ t, matchSymbol c s = .ok () t ∧ t.state = s.state) ∨
    (∃ t, matchSymbol c s = .ended t ∧ t.state = .fault) ∨
    ∃ e, matchSymbol c s = .stop e := by
  obtain ⟨d, u, hdist, hu⟩ := distance_ok s
  rw [matchSymbol, hdist, Res.bind_ok]
  dsimp only
  split_ifs
  · exact .inr (.inl ⟨_, rfl, u.faulted_state _⟩)
  · rcases copyBack_cases (offsetOf d) (matchLength c) u with ⟨t, hcopy, ht⟩ | hstop
    · exact .inl ⟨t, hcopy, (congrArg State.state ht).trans hu⟩
    · exact .inr (.inr hstop)

/-- Settles O25: the offset is at least 1 and within the output, so that COPY runs to its end, and what it leaves
(State.CopiedTo) is the statement. -/
theorem matchCopiesBackReference : Obligations.MatchCopiesBackReference := by
  intro s c p w hlo hhi hcode hoff hle hout
  obtain ⟨r, hcopy, hframe, hcount, hbelow, hcopied, habove⟩ := copyBack_copiedTo
    (s := { s with bitpos := s.bitpos + w + (p - 1) }) (Nat.succ_pos (s.distanceAt p w)) (matchLength c) hoff hle hout
  refine ⟨r, ?_, hframe, hcount, hbelow, hcopied, habove⟩
  rw [exec_lh5Match hlo (Nat.lt_succ_of_le hhi), matchSymbol_of_codeAt c hcode, if_neg (Nat.not_lt.mpr hoff), hcopy,
    Res.toOutcome]

/-! ## LH5.SYM (R232) -/

/-- The state in which LH5.SYM runs its literal or match: one symbol counted, a code of w bits consumed. -/
def State.symbolTaken (s : State) (w : Nat) : State :=
  { s with bitpos := s.bitpos + w, blockCount := s.blockCount - 1#16 }

theorem exec_lh5Sym_of_codeAt {s : State} {c w : Nat} (h : s.codeAt .c c w) :
    exec .lh5Sym s =
      ((if c < Config.litLimit then literalSymbol c (s.symbolTaken w) else matchSymbol c (s.symbolTaken w)).bind
        fun _ t => .ok () t.endBlock).toOutcome := by
  have hcode : s.countSymbol.codeAt .c c w := h
  have hexec : exec .lh5Sym s = (streamSymbol s).toOutcome := rfl
  rw [hexec, streamSymbol, decodeSymbol_of_codeAt hcode]
  rfl

theorem State.endBlock_eq (s : State) :
    s.endBlock = { s with phase := if s.blockCount = 0#16 then .blockHeader else s.phase } := by
  unfold State.endBlock
  split_ifs <;> rfl

@[simp] theorem State.memRead_endBlock (s : State) (q : Space) (a : Nat) :
    s.endBlock.memRead q a = s.memRead q a := by
  rw [State.endBlock_eq]
  rfl

/-- Settles O26: the literal is EMIT and goes on; a match that answers a next state has gone on with STATE as it was, or
has raised, and the last line of LH5.SYM runs in the first case only. -/
theorem symRunsLiteralOrMatch : Obligations.SymRunsLiteralOrMatch := by
  intro s c w hs hcode
  rw [exec_lh5Sym_of_codeAt hcode]
  refine ⟨fun hc hroom => ?_, fun hlo hhi q hq => ?_⟩
  · have hroom' : (s.symbolTaken w).outCount < (s.symbolTaken w).expandedSize := hroom
    refine ⟨((s.symbolTaken w).appended (BitVec.ofNat 8 c)).endBlock, ?_, ?_, ?_⟩
    · rw [if_pos hc, literalSymbol, emit_eq_appended _ hroom', Res.bind_ok, Res.toOutcome]
    · have hzero : s.blockCount - 1#16 = 0#16 ↔ s.blockCount = 1#16 := sub_eq_zero
      rw [State.endBlock_eq, State.appended_blockCount]
      simp only [State.symbolTaken, hzero]
      rfl
    · intro a
      rw [State.memRead_endBlock]
      exact State.memRead_out_appended _ _ a
  · have hmatch : (matchSymbol c (s.symbolTaken w)).toOutcome = .next q :=
      (exec_lh5Match hlo (Nat.lt_succ_of_le hhi) _).symm.trans hq
    rw [if_neg (Nat.not_lt.mpr hlo)]
    rcases matchSymbol_cases c (s.symbolTaken w) with ⟨t, e, ht⟩ | ⟨t, e, ht⟩ | ⟨f, e⟩ <;> rw [e] at hmatch ⊢
    · obtain rfl : t = q := Host.Outcome.next.inj hmatch
      refine ⟨fun _ => ?_, fun hfault => absurd (ht.symm.trans hfault) hs⟩
      rw [Res.bind_ok, t.endBlock_eq, Res.toOutcome]
    · obtain rfl : t = q := Host.Outcome.next.inj hmatch
      exact ⟨fun hgoes => absurd ht hgoes, fun _ => rfl⟩
    · cases hmatch

/-! ## Step selection (R231) -/

theorem step_of_no_host {s : State} (h : s.host = []) : step s = blockStep s := by
  rw [step_of_blockTurn (.inl h), State.blockStart_of_nil h]

theorem selection_of_lh5 {s : State} (hrun : s.state = .run) (hcodec : s.codec = Config.codecLh5) :
    s.selection = if s.outCount = s.expandedSize then .finish else selectDecoded s.lh5Selector := by
  rw [State.selection, if_neg (not_not.mpr hrun), if_pos hcodec]

/-- Settles O37: in RUN with CODEC = 5 the selection is the finish step or what PHASE selects. -/
theorem stepSelectsLh5Operation : Obligations.StepSelectsLh5Operation := by
  intro s hhost hrun hcodec
  rw [step_of_no_host hhost, blockStep, selection_of_lh5 hrun hcodec]
  refine ⟨fun hdone => ?_, fun hmore hphase => ?_, fun hmore hphase => ?_⟩
  · rw [if_pos hdone]
    rfl
  · rw [if_neg hmore, State.lh5Selector, hphase]
    rfl
  · rw [if_neg hmore, State.lh5Selector, hphase]
    rfl

end Sys2Proof.Machine
end

section
/-! Proofs about the LZSS decoder (44_lzss.md): EMIT, TAKEBIT and FETCH where their preconditions hold, the copy out of
the ring and LZSS.MATCH, and step selection. -/

namespace Sys2Proof.Machine

/-! ## EMIT of the LZSS decoder (R280) -/

/-- The state after the LZSS decoder's EMIT(v) within EXPANDED_SIZE (R280): v is appended to OUT and to RING. -/
def State.ringAppended (s : State) (v : Byte) : State :=
  { (s.appended v).memWrite .ring s.ringW.toNat v with ringW := s.ringW + 1#12 }

theorem emitRing_eq_ringAppended (v : Byte) {s : State} (h : s.outCount < s.expandedSize) :
    emitRing v s = .ok () (s.ringAppended v) := by
  rw [emitRing, emit_eq_appended v h]
  rfl

theorem State.ringAppended_outCount_toNat {s : State} (v : Byte) (h : s.outCount < s.expandedSize) :
    (s.ringAppended v).outCount.toNat = s.outCount.toNat + 1 :=
  State.appended_outCount_toNat v h

@[simp] theorem State.ringAppended_expandedSize (s : State) (v : Byte) :
    (s.ringAppended v).expandedSize = s.expandedSize := rfl

theorem State.ringAppended_ringW_toNat (s : State) (v : Byte) :
    (s.ringAppended v).ringW.toNat = (s.ringW.toNat + 1) % 4096 :=
  BitVec.toNat_add s.ringW 1#12

theorem State.memRead_out_ringAppended (s : State) (v : Byte) (a : Nat) :
    (s.ringAppended v).memRead .out a = if a = s.outCount.toNat then some v else s.memRead .out a :=
  s.memRead_out_appended v a

theorem State.memRead_ring_ringAppended {s : State} (h : s.memoriesCanonical) (v : Byte) (a : Nat) :
    (s.ringAppended v).memRead .ring a = if a = s.ringW.toNat then some v else s.memRead .ring a := by
  have hwrite := (s.appended v).memRead_memWrite .ring s.ringW.toNat v (h .ring) .ring a
  simp only [true_and, eq_comm (b := a)] at hwrite
  exact hwrite

theorem State.memoriesCanonical_ringAppended {s : State} (h : s.memoriesCanonical) (v : Byte) :
    (s.ringAppended v).memoriesCanonical :=
  State.memoriesCanonical_memWrite (s := s.appended v) (State.memoriesCanonical_memWrite h .out s.outCount.toNat v)
    .ring s.ringW.toNat v

/-! ## The copy out of the ring (R283, R285, R286) -/

/-- What a copy of n bytes from ring cell f on leaves in state t when it starts in state s with f the cell d places
behind RING_W: n bytes more, or fewer at EXPANDED_SIZE. Byte k is the old cell f + k, or from k = d on the byte d before
it; each also stands in the ring from RING_W on; nothing else has changed. -/
structure State.RingCopiedTo (f d n : Nat) (s t : State) : Prop where
  frame : t = { s with outMem := t.outMem, outCount := t.outCount, ringMem := t.ringMem, ringW := t.ringW }
  outCount : t.outCount.toNat = min (s.outCount.toNat + n) s.expandedSize.toNat
  ringW : t.ringW.toNat = (s.ringW.toNat + (t.outCount.toNat - s.outCount.toNat)) % 4096
  copied : ∀ k, s.outCount.toNat + k < t.outCount.toNat → t.memRead .out (s.outCount.toNat + k) =
    if k < d then s.memRead .ring ((f + k) % 4096) else t.memRead .out (s.outCount.toNat + k - d)
  mirrored : ∀ k, s.outCount.toNat + k < t.outCount.toNat →
    t.memRead .ring ((s.ringW.toNat + k) % 4096) = t.memRead .out (s.outCount.toNat + k)
  outElsewhere : ∀ a, a < s.outCount.toNat ∨ t.outCount.toNat ≤ a → t.memRead .out a = s.memRead .out a
  ringElsewhere : ∀ a, (∀ k, s.outCount.toNat + k < t.outCount.toNat → a ≠ (s.ringW.toNat + k) % 4096) →
    t.memRead .ring a = s.memRead .ring a

/-- A copy that adds no byte: none was asked for, or OUT_COUNT = EXPANDED_SIZE. -/
theorem State.RingCopiedTo.refl {f d n : Nat} {s : State}
    (h : s.outCount.toNat = min (s.outCount.toNat + n) s.expandedSize.toNat) : s.RingCopiedTo f d n s where
  frame := rfl
  outCount := h
  ringW := by rw [Nat.sub_self, Nat.add_zero, Nat.mod_eq_of_lt s.ringW.isLt]
  copied k hk := absurd hk (by omega)
  mirrored k hk := absurd hk (by omega)
  outElsewhere _ _ := rfl
  ringElsewhere _ _ := rfl

section
variable {f d n : Nat} {s t : State} {v : Byte}

/-- One byte appended from ring cell f, and then a copy of n more from the next cell on, which is again d cells behind
RING_W. The byte appended is overwritten by none of the n, and it is what byte d reads. -/
theorem State.RingCopiedTo.append (hpos : 1 ≤ d) (hd : d ≤ 4096) (hn : n < 4096)
    (hback : (f + d) % 4096 = s.ringW.toNat) (hcanon : s.memoriesCanonical) (hroom : s.outCount < s.expandedSize)
    (hv : s.memRead .ring (f % 4096) = some v) (h : (s.ringAppended v).RingCopiedTo (f + 1) d n t) :
    s.RingCopiedTo f d (n + 1) t := by
  obtain ⟨hframe, hcount, hringW, hcopied, hmirrored, hout, hring⟩ := h
  rw [State.ringAppended_expandedSize] at hcount
  rw [State.ringAppended_ringW_toNat] at hringW hmirrored hring
  rw [State.ringAppended_outCount_toNat v hroom] at hcount hringW hcopied hmirrored hout hring
  have hlt : s.outCount.toNat < s.expandedSize.toNat := hroom
  have hW : s.ringW.toNat < 4096 := s.ringW.isLt
  have houtNew : t.memRead .out s.outCount.toNat = some v := by
    rw [hout _ (by omega), State.memRead_out_ringAppended, if_pos rfl]
  have hringNew : t.memRead .ring s.ringW.toNat = some v := by
    rw [hring _ (by omega), State.memRead_ring_ringAppended hcanon, if_pos rfl]
  refine ⟨hframe, by omega, by omega, fun k hk => ?_, fun k hk => ?_, fun a ha => ?_, fun a ha => ?_⟩
  · cases k with
    | zero => rw [if_pos (by omega), Nat.add_zero, Nat.add_zero, houtNew, hv]
    | succ k =>
      have hnext := hcopied k (by omega)
      rw [State.memRead_ring_ringAppended hcanon] at hnext
      simp only [← Nat.add_assoc, Nat.add_right_comm _ k 1]
      rw [hnext]
      obtain hbelow | rfl | habove := lt_trichotomy (k + 1) d
      · rw [if_pos (by omega), if_neg (by omega), if_pos hbelow]
      · rw [if_pos (by omega), if_pos (by omega), if_neg (by omega), ← houtNew]
        congr 1
        omega
      · rw [if_neg (by omega), if_neg (by omega)]
  · cases k with
    | zero => rw [Nat.add_zero, Nat.add_zero, Nat.mod_eq_of_lt hW, hringNew, houtNew]
    | succ k =>
      have hnext := hmirrored k (by omega)
      rw [Nat.mod_add_mod] at hnext
      simpa only [← Nat.add_assoc, Nat.add_right_comm _ k 1] using hnext
  · rw [hout a (by omega), State.memRead_out_ringAppended, if_neg (by omega)]
  · have hfirst : a ≠ s.ringW.toNat := by
      have := ha 0 (by omega)
      omega
    rw [hring a fun k hk => ?_, State.memRead_ring_ringAppended hcanon, if_neg hfirst]
    have := ha (k + 1) (by omega)
    omega

/-- Of the ring, a copy needs a value only in the cells it reads before it has written them; with one byte appended the
same holds of the copy that is left. -/
theorem State.ring_readable_ringAppended (hd : d ≤ 4096) (hback : (f + d) % 4096 = s.ringW.toNat)
    (hcanon : s.memoriesCanonical) (hroom : s.outCount < s.expandedSize)
    (hread : ∀ k, k < n + 1 → k < d → s.outCount.toNat + k < s.expandedSize.toNat →
      s.memRead .ring ((f + k) % 4096) ≠ none) (k : Nat) (hkn : k < n) (hkd : k < d)
    (hk : (s.ringAppended v).outCount.toNat + k < (s.ringAppended v).expandedSize.toNat) :
    (s.ringAppended v).memRead .ring ((f + 1 + k) % 4096) ≠ none := by
  rw [State.ringAppended_outCount_toNat v hroom, State.ringAppended_expandedSize] at hk
  rw [State.memRead_ring_ringAppended hcanon]
  split_ifs with hcell
  · exact Option.some_ne_none v
  · have hlt : k + 1 < d := by
      by_contra hlast
      obtain rfl : d = k + 1 := by omega
      exact hcell (by omega)
    rw [Nat.add_right_comm]
    exact hread (k + 1) (by omega) hlt (by omega)

end

/-- The copy loop of LZSS.MATCH, where no cell it reads is unwritten. -/
theorem copyRing_ringCopiedTo {f d : Nat} (hpos : 1 ≤ d) (hd : d ≤ 4096) (n i : Nat) {s : State} (hn : n ≤ 4096)
    (hcanon : s.memoriesCanonical) (hle : s.outCount.toNat ≤ s.expandedSize.toNat)
    (hback : (f + i + d) % 4096 = s.ringW.toNat)
    (hread : ∀ k, k < n → k < d → s.outCount.toNat + k < s.expandedSize.toNat →
      s.memRead .ring ((f + i + k) % 4096) ≠ none) :
    ∃ t, copyRing f n i s = .ok () t ∧ s.RingCopiedTo (f + i) d n t := by
  induction n generalizing i s with
  | zero => exact ⟨s, rfl, .refl (by omega)⟩
  | succ n ih =>
    by_cases hfull : s.outCount = s.expandedSize
    · exact ⟨s, by rw [copyRing, if_pos hfull], .refl (by rw [hfull]; omega)⟩
    have hroom : s.outCount < s.expandedSize := Nat.lt_of_le_of_ne hle (mt BitVec.eq_of_toNat_eq hfull)
    obtain ⟨v, hv⟩ := Option.ne_none_iff_exists'.mp (hread 0 (by omega) (by omega) hroom)
    have hcount := State.ringAppended_outCount_toNat v hroom
    have hringW := s.ringAppended_ringW_toNat v
    obtain ⟨t, hcopy, ht⟩ := ih (i + 1) (by omega) (State.memoriesCanonical_ringAppended hcanon v)
      (hcount.trans_le hroom) (by omega) (State.ring_readable_ringAppended hd hback hcanon hroom hread)
    refine ⟨t, ?_, ht.append hpos hd hn hback hcanon hroom hv⟩
    have hcell : s.memRead .ring (ringIndex f i) = some v := hv
    rw [copyRing, if_neg hfull, hcell]
    dsimp only
    rw [emitRing_eq_ringAppended v hroom, Res.bind_ok, hcopy]

/-! ## LZSS.MATCH (R283) -/

/-- The state after TAKEBIT (R275). -/
def State.bitTaken (s : State) : State := { s with ctrl := s.ctrl <<< 1, ctrlLeft := s.ctrlLeft - 1#4 }

/-- The state after FETCH of a byte (R272). -/
def State.byteTaken (s : State) : State := { s with inPos := s.inPos + 1#32 }

/-- The state in which LZSS.MATCH starts its copy: one decision bit and the two bytes of the pair consumed. -/
def State.pairTaken (s : State) : State :=
  { s with ctrl := s.ctrl <<< 1, ctrlLeft := s.ctrlLeft - 1#4, inPos := s.inPos + 2#32 }

theorem State.byteTaken_byteTaken_bitTaken (s : State) : s.bitTaken.byteTaken.byteTaken = s.pairTaken := by
  have htwo : s.inPos + 1#32 + 1#32 = s.inPos + 2#32 := BitVec.add_assoc _ _ _
  rw [State.pairTaken, ← htwo]
  rfl

theorem takeBit_ok {s : State} (h : s.ctrlLeft ≠ 0#4) : takeBit s = .ok s.decisionBit s.bitTaken :=
  if_neg h

theorem fetchByte_ok {s : State} {b : Byte} (h : s.inPos < s.inLen) (hb : s.memRead .inn s.inPos.toNat = some b) :
    fetchByte s = .ok (some b) s.byteTaken := by
  rw [fetchByte, if_neg (BitVec.ne_of_lt h), if_pos h, hb]
  rfl

theorem fetchOrEnd_ok (place : EofPlace) {s : State} {b : Byte} (h : s.inPos < s.inLen)
    (hb : s.memRead .inn s.inPos.toNat = some b) : fetchOrEnd place s = .ok b s.byteTaken := by
  rw [fetchOrEnd, fetchByte_ok h hb]
  rfl

theorem fetchSecond_ok {s : State} {b : Byte} (h : s.inPos < s.inLen) (hb : s.memRead .inn s.inPos.toNat = some b) :
    fetchSecond s = .ok b s.byteTaken := by
  rw [fetchSecond, fetchByte_ok h hb]
  rfl

theorem matchToken_of_pair {s : State} {b0 b1 : Byte} (hleft : s.ctrlLeft ≠ 0#4)
    (hlen : s.inPos.toNat + 2 ≤ s.inLen.toNat) (hb0 : s.memRead .inn s.inPos.toNat = some b0)
    (hb1 : s.memRead .inn (s.inPos.toNat + 1) = some b1) :
    matchToken s = copyRing (pairOffset b0 b1) (pairLength b1) 0 s.pairTaken := by
  have hnext : (s.inPos + 1#32).toNat = s.inPos.toNat + 1 := by bv_omega
  have hfirst : s.inPos < s.inLen := by bv_omega
  have hsecond : s.inPos + 1#32 < s.inLen := by bv_omega
  rw [← hnext] at hb1
  rw [matchToken, takeBit_ok hleft, Res.bind_ok, fetchOrEnd_ok (s := s.bitTaken) .pairFirst hfirst hb0, Res.bind_ok,
    fetchSecond_ok (s := s.bitTaken.byteTaken) hsecond hb1, Res.bind_ok, State.byteTaken_byteTaken_bitTaken]

/-- Settles O29: with its pair read, LZSS.MATCH is the copy of at most 18 bytes out of the ring, which runs to its end,
and what it leaves (State.RingCopiedTo) is the statement. -/
theorem lzssMatchCopiesFromRing : Obligations.LzssMatchCopiesFromRing := by
  intro s b0 b1 hcanon hleft hlen hb0 hb1 hle f len d hf hn hpos hd hback hread
  subst hf hn
  obtain ⟨t, hcopy, hframe, hcount, hringW, hcopied, hmirrored, hout, hring⟩ :=
    copyRing_ringCopiedTo (s := s.pairTaken) hpos hd (pairLength b1) 0
      (by simp only [pairLength, Config.pairLenBias]; omega) hcanon hle hback hread
  refine ⟨t, ?_, hframe, hcount, hringW, fun k hk => ⟨hcopied k hk, hmirrored k hk⟩, hout, hring⟩
  have hexec : exec .lzssMatch s = (matchToken s).toOutcome := rfl
  rw [hexec, matchToken_of_pair hleft hlen hb0 hb1]
  exact congrArg Res.toOutcome hcopy

/-! ## Step selection (R271) -/

theorem selection_of_lzss {s : State} (hrun : s.state = .run) (hcodec : s.codec = Config.codecLzss) :
    s.selection = if s.outCount = s.expandedSize then .finish else selectDecoded s.lzssSelector := by
  have hnotLh5 : s.codec ≠ Config.codecLh5 := by
    rw [hcodec]
    decide
  rw [State.selection, if_neg (not_not.mpr hrun), if_neg hnotLh5, if_pos hcodec]

theorem selectDecoded_of_token {s : State} (h : s.ctrlLeft ≠ 0#4) :
    selectDecoded s.lzssSelector = .operation (if s.ctrl.getLsbD 7 then .lzssLit else .lzssMatch) := by
  rw [State.lzssSelector, if_neg h, State.decisionBit]
  cases s.ctrl.getLsbD 7 <;> rfl

/-- Settles O38: in RUN with CODEC = 3 the selection is the finish step, LZSS.CTRL with no decision bit left, or the
token that CTRL[7] selects. -/
theorem stepSelectsLzssOperation : Obligations.StepSelectsLzssOperation := by
  intro s hhost hrun hcodec
  rw [step_of_no_host hhost, blockStep, selection_of_lzss hrun hcodec]
  refine ⟨fun hdone => ?_, fun hmore hnone => ?_, fun hmore hleft hbit => ?_, fun hmore hleft hbit => ?_⟩
  · rw [if_pos hdone]
    rfl
  · rw [if_neg hmore, State.lzssSelector, if_pos hnone]
    rfl
  · rw [if_neg hmore, selectDecoded_of_token hleft, hbit]
    rfl
  · rw [if_neg hmore, selectDecoded_of_token hleft, hbit]
    rfl

end Sys2Proof.Machine
end

section
/-! Proofs about the host's commands (45_host_commands.md): CMD.RESET. -/

namespace Sys2Proof.Machine

/-! ## CMD.RESET (R316) -/

/-- R316: CMD.RESET has no condition on the state. -/
theorem exec_cmdReset (s : State) : exec .cmdReset s = .next (resetBlock s) := rfl

@[simp] theorem resetBlock_inMem (s : State) : (resetBlock s).inMem = s.inMem := rfl
@[simp] theorem resetBlock_params (s : State) : (resetBlock s).params = s.params := rfl

theorem State.unit_reset (x : Alphabet) : State.reset.unit x = TableUnit.reset x := by
  cases x <;> rfl

/-- R39, column "After reset": each register by its field of State.reset, CONST_X of every unit by State.unit_reset. -/
theorem State.resetValues_reset : State.reset.resetValues := by
  have hconst (x : Alphabet) : (State.reset.unit x).constV = false ∧ (State.reset.unit x).constSym = 0 := by
    rw [State.unit_reset]
    exact ⟨rfl, rfl⟩
  exact ⟨rfl, rfl, rfl, rfl, rfl, rfl, rfl, rfl, rfl, rfl, rfl, rfl, hconst, rfl, rfl, rfl⟩

/-- What CMD.RESET keeps of a state is none of the registers R39 names. -/
theorem resetBlock_resetValues_iff (s : State) : (resetBlock s).resetValues ↔ State.reset.resetValues := Iff.rfl

/-- Settles O33: the state after power-on has the values of R39, and CMD.RESET keeps of any state only fields beside
them, IN and the parameters among these. -/
theorem resetRestoresResetValues : Obligations.ResetRestoresResetValues :=
  ⟨State.resetValues_reset, fun s =>
    ⟨resetBlock s, exec_cmdReset s, (resetBlock_resetValues_iff s).mpr State.resetValues_reset, resetBlock_inMem s,
      resetBlock_params s⟩⟩

end Sys2Proof.Machine
end

section
/-! Proofs about the shape of the table units, which every step keeps (41_huffman_table.md R176, 60_exceptions.md R351).
LEN_C stays within 0..16 because LH5.HDR has made table T before it reads the C section: each T symbol is then below 19,
and the length it stands for at most 16. -/

namespace Sys2Proof.Machine

/-! ## The states a result answers -/

/-- P holds of the value and the state the result goes on with, E of the state it ends the operation in. -/
inductive Res.Ensures {α : Type} (E : State → Prop) (P : α → State → Prop) : Res α → Prop
  | ok {a : α} {t : State} (h : P a t) : Ensures E P (.ok a t)
  | ended {t : State} (h : E t) : Ensures E P (.ended t)
  | stop (e : Fault) : Ensures E P (.stop e)

/-- Every state the result answers has its tables in shape. -/
def Res.KeepsShape {α : Type} (r : Res α) : Prop := r.Ensures State.tablesShaped fun _ t => t.tablesShaped

namespace Res.Ensures

variable {α β : Type} {E : State → Prop} {P : α → State → Prop} {Q : β → State → Prop}

theorem bind {r : Res α} {f : α → State → Res β} (h : r.Ensures E P) (hf : ∀ a t, P a t → (f a t).Ensures E Q) :
    (r.bind f).Ensures E Q := by
  cases h with
  | ok h => exact hf _ _ h
  | ended h => exact .ended h
  | stop e => exact .stop e

theorem of_toOutcome {r : Res Unit} {t : State} (h : r.Ensures E fun _ => E) (ht : r.toOutcome = .next t) : E t := by
  rcases Res.toOutcome_eq_next.mp ht with rfl | rfl <;> cases h <;> assumption

end Res.Ensures

/-! ## Writes to a table unit -/

section
variable {x : Alphabet} {u : TableUnit}

theorem TableUnit.shaped_setLen (hu : u.shaped x) (i : Nat) {l : Nat} (hl : l ≤ 16) :
    ({ u with len := u.len.set i (BitVec.ofNat 5 l) } : TableUnit).shaped x := by
  obtain ⟨hlen, htable, hleft, hright, hlens⟩ := hu
  refine ⟨List.length_set.trans hlen, htable, hleft, hright, fun k hk => ?_⟩
  obtain ⟨b, hb, rfl⟩ := List.mem_map.mp hk
  rcases List.mem_or_eq_of_mem_set hb with hold | rfl
  · exact hlens _ (List.mem_map_of_mem hold)
  · rwa [BitVec.toNat_ofNat, Nat.mod_eq_of_lt (by omega)]

theorem TableUnit.lens_le_of_len_zero {n : Nat} (hlen : u.len = List.replicate n 0#5) : ∀ l ∈ u.lens, l ≤ 16 := by
  intro l hl
  rw [TableUnit.lens, hlen, List.map_replicate] at hl
  rw [List.eq_of_mem_replicate hl]
  exact Nat.zero_le _

theorem TableUnit.shaped_clearLens (hu : u.shaped x) :
    ({ u with len := List.replicate x.size 0#5 } : TableUnit).shaped x := by
  obtain ⟨-, htable, hleft, hright, -⟩ := hu
  exact ⟨List.length_replicate, htable, hleft, hright, TableUnit.lens_le_of_len_zero rfl⟩

theorem TableUnit.shaped_fillEntries (hu : u.shaped x) (base n v : Nat) :
    ({ u with table := fillEntries base n v u.table } : TableUnit).shaped x := by
  obtain ⟨hlen, htable, hleft, hright, hlens⟩ := hu
  exact ⟨hlen, (length_fillEntries base n v u.table).trans htable, hleft, hright, hlens⟩

theorem TableUnit.shaped_reset (x : Alphabet) : (TableUnit.reset x).shaped x :=
  ⟨List.length_replicate, List.length_replicate, List.length_replicate, List.length_replicate,
    TableUnit.lens_le_of_len_zero rfl⟩

end

namespace State.tablesShaped

variable {s t : State} {x : Alphabet}

theorem of_units (h : s.tablesShaped) (hunit : ∀ y, t.unit y = s.unit y) : t.tablesShaped :=
  fun y => (hunit y).symm ▸ h y

theorem setUnit (h : s.tablesShaped) {u : TableUnit} (hu : u.shaped x) : (s.setUnit x u).tablesShaped := by
  intro y
  by_cases hxy : x = y
  · subst hxy
    rwa [State.unit_setUnit_same]
  · rw [State.unit_setUnit_other s u hxy]
    exact h y

theorem setLen (h : s.tablesShaped) (x : Alphabet) (i : Nat) {l : Nat} (hl : l ≤ 16) :
    (s.setLen x i l).tablesShaped :=
  h.setUnit (TableUnit.shaped_setLen (h x) i hl)

theorem clearLens (h : s.tablesShaped) (x : Alphabet) : (s.clearLens x).tablesShaped :=
  h.setUnit (TableUnit.shaped_clearLens (h x))

theorem endBlock (h : s.tablesShaped) : s.endBlock.tablesShaped := by
  rw [State.endBlock_eq]
  exact h

theorem raise {α : Type} (h : s.tablesShaped) {P : α → State → Prop} (c : Cause) :
    (Machine.raise c s : Res α).Ensures State.tablesShaped P := .ended h

end State.tablesShaped

/-! ## HT.BUILD and HT.CONST (R155 to R165) -/

/-- A single-symbol table of X is one of a symbol of X (R165). -/
def TableUnit.constInAlphabet (x : Alphabet) (u : TableUnit) : Prop := u.constV = true → u.constSym < x.size

/-- What holds of unit X from part 3 of BUILD on. -/
def TableUnit.inBuild (x : Alphabet) (u : TableUnit) : Prop := u.shaped x ∧ u.constV = false

/-- A part of BUILD that leaves its unit in build, whether it goes on or refuses a node. -/
def LeavesInBuild {α : Type} (x : Alphabet) (unitOf : α → TableUnit) : Except TableUnit α → Prop
  | .ok a => (unitOf a).inBuild x
  | .error u => u.inBuild x

section
variable {x : Alphabet} {u : TableUnit}

theorem TableUnit.inBuild.writeCell (h : u.inBuild x) (c : CellRef) (e : Entry) : (u.writeCell x c e).inBuild x := by
  obtain ⟨hshaped, hconst⟩ := h
  obtain ⟨-, hkept, -⟩ := u.writeCell_sameRegisters (x := x) c e
  exact ⟨TableUnit.shaped_writeCell hshaped c e, hkept.trans hconst⟩

theorem insertWalk_leavesInBuild (k rem d : Nat) (c : CellRef) (h : u.inBuild x) :
    LeavesInBuild x Prod.snd (insertWalk x k rem d c u) := by
  induction rem generalizing d c u with
  | zero => exact h
  | succ rem ih =>
    cases hr : u.readCell x c with
    | some node =>
      rw [insertWalk_some hr]
      exact ih _ _ h
    | none =>
      by_cases hroom : u.avail ≤ 2 * x.size - 2
      · rw [insertWalk_none hr hroom]
        exact ih _ _ (h.writeCell c _)
      · simp only [insertWalk, hr, if_pos (not_le.mp hroom)]
        exact h

theorem assignCode_leavesInBuild (v l k : Nat) (h : u.inBuild x) : LeavesInBuild x id (assignCode x v l k u) := by
  obtain ⟨hshaped, hconst⟩ := h
  unfold assignCode
  dsimp only
  split_ifs
  · exact ⟨TableUnit.shaped_fillEntries hshaped _ _ _, hconst⟩
  · have hwalk := insertWalk_leavesInBuild k (l - x.tableBits) x.tableBits (.table (k / 2 ^ (16 - x.tableBits)))
      ⟨hshaped, hconst⟩
    generalize insertWalk x k (l - x.tableBits) x.tableBits (.table (k / 2 ^ (16 - x.tableBits))) u = r at hwalk ⊢
    cases r with
    | error u' => exact hwalk
    | ok r => exact hwalk.writeCell r.1 _

theorem assignAll_leavesInBuild (lens : List Nat) (v : Nat) (start : List Nat) (h : u.inBuild x) :
    LeavesInBuild x id (assignAll x lens v start u) := by
  induction lens generalizing v start u with
  | nil => exact h
  | cons l lens ih =>
    unfold assignAll
    dsimp only
    split_ifs
    · exact ih _ _ h
    · have hassign := assignCode_leavesInBuild v l (start.getD l 0) h
      generalize assignCode x v l (start.getD l 0) u = r at hassign ⊢
      cases r with
      | error u' => exact hassign
      | ok u' => exact ih _ _ hassign

end

section
variable {s : State}

theorem buildTable_ensures (x : Alphabet) (hs : s.tablesShaped) :
    (buildTable x s).Ensures State.tablesShaped fun _ t => t.tablesShaped ∧ (t.unit x).constInAlphabet x := by
  obtain ⟨hlen, -, -, -, hlens⟩ := hs x
  have hbuild := assignAll_leavesInBuild (s.unit x).lens 0 (startOffsets (s.unit x).lens)
    (u := (s.unit x).cleared x) ⟨TableUnit.shaped_cleared hlen hlens, rfl⟩
  rcases buildTable_cases x s with ⟨_, -, e⟩ | ⟨-, -, e⟩ | ⟨-, -, u, hu, e⟩ | ⟨-, -, u, hu, e⟩ <;> rw [e]
  · exact hs.raise _
  · exact hs.raise _
  · obtain ⟨hshaped, -⟩ := hu ▸ hbuild
    exact (hs.setUnit hshaped).raise _
  · obtain ⟨hshaped, hconst⟩ := hu ▸ hbuild
    refine .ok ⟨hs.setUnit hshaped, fun hV => ?_⟩
    rw [State.unit_setUnit_same] at hV
    cases hconst.symm.trans hV

theorem constTable_ensures (x : Alphabet) (c : Nat) (hs : s.tablesShaped) :
    (constTable x c s).Ensures State.tablesShaped fun _ t => t.tablesShaped ∧ (t.unit x).constInAlphabet x := by
  rcases constTable_cases x c s with ⟨hc, e⟩ | ⟨-, e⟩ <;> rw [e]
  · refine .ok ⟨hs.setUnit (TableUnit.shaped_clearLens (hs x)), fun _ => ?_⟩
    rwa [State.unit_setUnit_same]
  · exact hs.raise _

/-! ## HT.DECODE (R170) -/

theorem treeWalk_lt {x : Alphabet} {u : TableUnit} {w fuel d v v' : Nat} (h : treeWalk x u w fuel d v = some v') :
    v' < x.size := by
  induction fuel generalizing d v with
  | zero =>
    rw [treeWalk] at h
    split_ifs at h with hv
    exact Option.some.inj h ▸ hv
  | succ fuel ih =>
    rw [treeWalk] at h
    by_cases hv : v < x.size
    · rw [if_pos hv] at h
      exact Option.some.inj h ▸ hv
    · rw [if_neg hv] at h
      split at h
      · cases h
      · exact ih h

theorem TableUnit.symbolAt_lt {x : Alphabet} {u : TableUnit} {w v : Nat} (h : u.symbolAt x w = some v) :
    v < x.size := by
  unfold TableUnit.symbolAt at h
  split at h
  · cases h
  · exact treeWalk_lt h

/-- DECODE(X) goes on, writes no table, and gives a symbol of X. -/
theorem decodeSymbol_frame (x : Alphabet) (s : State) :
    ∃ v t, decodeSymbol x s = .ok v t ∧ (∀ y, t.unit y = s.unit y) ∧
      ((s.unit x).constInAlphabet x → v < x.size) := by
  rcases decodeSymbol_cases x s with ⟨hV, e⟩ | ⟨-, v, hv, e⟩ | ⟨-, -, hlt, e⟩
  · exact ⟨_, _, e, fun _ => rfl, fun hconst => hconst hV⟩
  · exact ⟨_, _, e, s.unit_consume _, fun _ => TableUnit.symbolAt_lt hv⟩
  · exact ⟨_, _, e, fun _ => rfl, fun _ => hlt⟩

/-! ## The block header (42_lh5_block_header.md) -/

theorem lengthCode_ensures (hs : s.tablesShaped) :
    (lengthCode s).Ensures State.tablesShaped fun l t => t.tablesShaped ∧ l ≤ 16 := by
  rcases lengthCode_cases s with ⟨hl, e⟩ | ⟨-, e⟩ <;> rw [e]
  · exact .ok ⟨hs, hl⟩
  · exact hs.raise _

theorem tLengths_keepsShape (n fuel i : Nat) (hs : s.tablesShaped) : (tLengths n fuel i s).KeepsShape := by
  induction fuel generalizing i s with
  | zero => exact .ok hs
  | succ fuel ih =>
    unfold tLengths
    split
    · refine (lengthCode_ensures hs).bind fun l t ⟨ht, hl⟩ => ?_
      have hset := ht.setLen .t i hl
      dsimp only
      split
      · exact ih _ hset
      · exact ih _ hset
    · exact .ok hs

/-- The item of a T symbol stores a length of at most 16, and leaves table T alone. -/
theorem cItem_ensures {v : Nat} (i : Nat) (hs : s.tablesShaped) (hv : v < 19) :
    (cItem v i s).Ensures State.tablesShaped fun _ t => t.tablesShaped ∧ t.unit .t = s.unit .t := by
  have hrun (t : State) (run : Nat) (ht : t.tablesShaped) (hT : t.unit .t = s.unit .t) :
      (zeroRun i run t).Ensures State.tablesShaped fun _ t => t.tablesShaped ∧ t.unit .t = s.unit .t := by
    rcases zeroRun_cases i run t with ⟨-, e⟩ | ⟨-, e⟩ <;> rw [e]
    · exact .ok ⟨ht, hT⟩
    · exact ht.raise _
  unfold cItem
  split_ifs
  · exact hrun s 1 hs rfl
  · exact hrun _ _ hs rfl
  · exact hrun _ _ hs rfl
  · exact .ok ⟨hs.setLen .c i (by omega), rfl⟩

theorem cLengths_keepsShape (n fuel i : Nat) (hs : s.tablesShaped) (hT : (s.unit .t).constInAlphabet .t) :
    (cLengths n fuel i s).KeepsShape := by
  induction fuel generalizing i s with
  | zero => exact .ok hs
  | succ fuel ih =>
    unfold cLengths
    split_ifs
    · obtain ⟨v, t, e, hunit, hv⟩ := decodeSymbol_frame .t s
      rw [e, Res.bind_ok]
      refine (cItem_ensures i (hs.of_units hunit) (hv hT)).bind fun j t' ⟨ht', hT'⟩ => ih j ht' ?_
      rwa [hT', hunit]
    · exact .ok hs

theorem pLengths_keepsShape (rem i : Nat) (hs : s.tablesShaped) : (pLengths rem i s).KeepsShape := by
  induction rem generalizing i s with
  | zero => exact .ok hs
  | succ rem ih => exact (lengthCode_ensures hs).bind fun l t ⟨ht, hl⟩ => ih (i + 1) (ht.setLen .p i hl)

/-- A section whose loop over the length codes keeps the shape leaves a table that HT.CONST or HT.BUILD has made (R196,
R205, R214). -/
theorem section_ensures (x : Alphabet) (bound n : Nat) {lengths : Res Unit} (hs : s.tablesShaped)
    (hlengths : lengths.KeepsShape) :
    (if n = 0 then constSection x s
      else if bound < n then raise (.malformedTable .count n) s
      else lengths.bind fun _ t => buildTable x t).Ensures State.tablesShaped
        fun _ t => t.tablesShaped ∧ (t.unit x).constInAlphabet x := by
  split_ifs
  · exact constTable_ensures x _ hs
  · exact hs.raise _
  · exact hlengths.bind fun _ _ ht => buildTable_ensures x ht

theorem tSection_ensures (hs : s.tablesShaped) :
    (tSection s).Ensures State.tablesShaped fun _ t => t.tablesShaped ∧ (t.unit .t).constInAlphabet .t :=
  section_ensures .t _ _ hs (tLengths_keepsShape _ _ _ (State.tablesShaped.clearLens hs .t))

theorem cSection_ensures (hs : s.tablesShaped) (hT : (s.unit .t).constInAlphabet .t) :
    (cSection s).Ensures State.tablesShaped fun _ t => t.tablesShaped ∧ (t.unit .c).constInAlphabet .c :=
  section_ensures .c _ _ hs (cLengths_keepsShape _ _ _ (State.tablesShaped.clearLens hs .c) hT)

theorem pSection_ensures (hs : s.tablesShaped) :
    (pSection s).Ensures State.tablesShaped fun _ t => t.tablesShaped ∧ (t.unit .p).constInAlphabet .p :=
  section_ensures .p _ _ hs (pLengths_keepsShape _ _ (State.tablesShaped.clearLens hs .p))

/-- R192: the C section is read with table T just made. -/
theorem blockHeader_keepsShape (hs : s.tablesShaped) : (blockHeader s).KeepsShape :=
  (tSection_ensures (s := blockCountPart s) hs).bind fun _ _ ⟨ht, hT⟩ =>
    (cSection_ensures ht hT).bind fun _ _ ⟨ht, _⟩ =>
      (pSection_ensures ht).bind fun _ _ ⟨ht, _⟩ => .ok ht

/-! ## Streaming (43_lh5_streaming.md) -/

theorem emit_keepsShape (v : Byte) (hs : s.tablesShaped) : (emit v s).KeepsShape := by
  rcases emit_cases v s with ⟨-, e⟩ | ⟨-, e⟩ <;> rw [e]
  · exact .ok hs
  · exact .stop _

theorem copyBack_keepsShape (offset k : Nat) (hs : s.tablesShaped) : (copyBack offset k s).KeepsShape := by
  rcases copyBack_cases offset k s with ⟨t, e, ht⟩ | ⟨f, e⟩ <;> rw [e]
  · exact .ok (hs.of_units fun y => (congrArg (State.unit · y) ht :))
  · exact .stop f

theorem distance_keepsShape (hs : s.tablesShaped) : (distance s).KeepsShape := by
  obtain ⟨p, t, e, hunit, -⟩ := decodeSymbol_frame .p s
  rw [distance_of_symbol e]
  exact .ok (hs.of_units hunit)

theorem matchSymbol_keepsShape (c : Nat) (hs : s.tablesShaped) : (matchSymbol c s).KeepsShape := by
  refine (distance_keepsShape hs).bind fun d t ht => ?_
  dsimp only
  split_ifs
  · exact ht.raise _
  · exact copyBack_keepsShape _ _ ht

theorem streamSymbol_keepsShape (hs : s.tablesShaped) : (streamSymbol s).KeepsShape := by
  obtain ⟨c, t, e, hunit, -⟩ := decodeSymbol_frame .c s.countSymbol
  have ht : t.tablesShaped := State.tablesShaped.of_units (s := s.countSymbol) hs hunit
  rw [streamSymbol, e, Res.bind_ok]
  refine Res.Ensures.bind (P := fun _ t => t.tablesShaped) ?_ fun _ _ ht => .ok ht.endBlock
  split_ifs
  · exact emit_keepsShape _ ht
  · exact matchSymbol_keepsShape c ht

/-! ## LZSS (44_lzss.md) -/

theorem takeBit_keepsShape (hs : s.tablesShaped) : (takeBit s).KeepsShape := by
  rcases takeBit_cases s with ⟨-, e⟩ | ⟨-, e⟩ <;> rw [e]
  · exact .ok hs
  · exact .stop _

theorem fetchOrEnd_keepsShape (place : EofPlace) (hs : s.tablesShaped) : (fetchOrEnd place s).KeepsShape := by
  rcases fetchOrEnd_cases place s with ⟨-, -, e⟩ | ⟨-, -, e⟩ | ⟨-, e⟩ | ⟨-, e⟩ <;> rw [e]
  · exact hs.raise _
  · exact .ended hs
  · exact .ok hs
  · exact .stop _

theorem fetchSecond_keepsShape (hs : s.tablesShaped) : (fetchSecond s).KeepsShape := by
  rcases fetchSecond_cases s with ⟨-, e⟩ | ⟨-, e⟩ | ⟨-, e⟩ <;> rw [e]
  · exact hs.raise _
  · exact .ok hs
  · exact .stop _

theorem emitRing_keepsShape (v : Byte) (hs : s.tablesShaped) : (emitRing v s).KeepsShape :=
  (emit_keepsShape v hs).bind fun _ _ ht => .ok ht

theorem copyRing_keepsShape (f n k : Nat) (hs : s.tablesShaped) : (copyRing f n k s).KeepsShape := by
  induction n generalizing k s with
  | zero => exact .ok hs
  | succ n ih =>
    unfold copyRing
    split_ifs
    · exact .ok hs
    · split
      · exact hs.raise _
      · exact (emitRing_keepsShape _ hs).bind fun _ _ ht => ih (k + 1) ht

theorem controlByte_keepsShape (hs : s.tablesShaped) : (controlByte s).KeepsShape :=
  (fetchOrEnd_keepsShape .ctrlByte hs).bind fun _ _ ht => .ok ht

theorem literalToken_keepsShape (hs : s.tablesShaped) : (literalToken s).KeepsShape :=
  (takeBit_keepsShape hs).bind fun _ _ ht =>
    (fetchOrEnd_keepsShape .literal ht).bind fun v _ ht => emitRing_keepsShape v ht

theorem matchToken_keepsShape (hs : s.tablesShaped) : (matchToken s).KeepsShape :=
  (takeBit_keepsShape hs).bind fun _ _ ht =>
    (fetchOrEnd_keepsShape .pairFirst ht).bind fun b0 _ ht =>
      (fetchSecond_keepsShape ht).bind fun b1 _ ht => copyRing_keepsShape (pairOffset b0 b1) (pairLength b1) 0 ht

/-! ## The host (45_host_commands.md) -/

theorem State.unit_jobStart (s : State) (x : Alphabet) : s.jobStart.unit x = (s.unit x).constCleared := by
  cases x <;> rfl

theorem State.tablesShaped_jobStart (hs : s.tablesShaped) : s.jobStart.tablesShaped := by
  intro x
  rw [State.unit_jobStart]
  exact hs x

theorem startJob_keepsShape (hs : s.tablesShaped) : (startJob s).KeepsShape := by
  have hstart := State.tablesShaped_jobStart hs
  unfold startJob
  dsimp only
  split_ifs
  · exact .ok hs
  · exact .ok hstart
  · exact hstart.raise _

theorem tablesShaped_resetBlock (s : State) : (resetBlock s).tablesShaped := by
  intro x
  have hunit : (resetBlock s).unit x = State.reset.unit x := rfl
  rw [hunit, State.unit_reset]
  exact TableUnit.shaped_reset x

theorem tablesShaped_abortJob (hs : s.tablesShaped) : (abortJob s).tablesShaped := by
  unfold abortJob
  split_ifs
  · exact hs
  · exact hs

theorem exec_command_keepsTablesShaped {t : State} (c : HostCommand) (hs : s.tablesShaped)
    (ht : exec c.instr s = .next t) : t.tablesShaped := by
  cases c with
  | reset => exact Host.Outcome.next.inj ht ▸ tablesShaped_resetBlock s
  | start => exact (startJob_keepsShape hs).of_toOutcome ht
  | abort => exact Host.Outcome.next.inj ht ▸ tablesShaped_abortJob hs

/-- A host access writes no table. -/
theorem hostAccess_unit {t : State} {a : HostAction} (ht : hostAccess a s = .next t) (x : Alphabet) :
    t.unit x = s.unit x := by
  have hregister {w : State} (hw : w.unit x = s.unit x) (ht : hostWriteRegister s w = .next t) :
      t.unit x = s.unit x := by
    unfold hostWriteRegister at ht
    split_ifs at ht <;> cases ht
    · rfl
    · exact hw
  cases a with
  | wait => cases ht; rfl
  | command c => cases ht; rfl
  | writeCodec v => exact hregister (by rfl) ht
  | writeInLen v => exact hregister (by rfl) ht
  | writeExpandedSize v => exact hregister (by rfl) ht
  | writeIn a v =>
    unfold hostAccess at ht
    dsimp only at ht
    split_ifs at ht
    cases ht
    rfl
  | writeOut a v => cases ht
  | read o =>
    unfold hostAccess hostRead at ht
    dsimp only at ht
    split_ifs at ht
    split at ht <;> cases ht <;> rfl

/-! ## The step -/

theorem blockStep_keepsTablesShaped {t : State} (hs : s.tablesShaped) (ht : blockStep s = .next t) :
    t.tablesShaped := by
  unfold blockStep at ht
  rcases s.selection_cases with ⟨-, e⟩ | ⟨-, -, -, e⟩ | ⟨-, -, -, -, e⟩ | ⟨-, -, -, -, e⟩ | ⟨-, -, -, -, e⟩ |
    ⟨-, -, -, -, -, e⟩ | ⟨-, -, -, -, -, e⟩ | ⟨-, -, e⟩ <;> rw [e] at ht
  · exact Host.Outcome.next.inj ht ▸ hs
  · exact Host.Outcome.next.inj ht ▸ hs
  · exact (blockHeader_keepsShape hs).of_toOutcome ht
  · exact (streamSymbol_keepsShape hs).of_toOutcome ht
  · exact (controlByte_keepsShape hs).of_toOutcome ht
  · exact (literalToken_keepsShape hs).of_toOutcome ht
  · exact (matchToken_keepsShape hs).of_toOutcome ht
  · cases ht

end

/-- Settles O48: a turn is a step of the block, a command or a host access. Only LH5.HDR, CMD.START and CMD.RESET write
the table units; the lengths that LH5.HDR stores are length codes of at most 16 or t - 2 for a T symbol t below 19. -/
theorem stepKeepsTablesShaped : Obligations.StepKeepsTablesShaped := by
  intro s t hs ht
  rcases step_cases s with ⟨-, e⟩ | ⟨rest, -, e⟩ | ⟨c, rest, -, e⟩ | ⟨a, rest, -, -, -, e⟩ <;> rw [e] at ht
  · exact blockStep_keepsTablesShaped hs ht
  · exact blockStep_keepsTablesShaped (s := { s with host := rest }) hs ht
  · exact exec_command_keepsTablesShaped (s := { s with host := rest }) c hs ht
  · exact State.tablesShaped.of_units (s := { s with host := rest }) hs (hostAccess_unit ht)

end Sys2Proof.Machine
end

section
/-! Proofs about stream fields (00_scope.md R12, 30_encoding.md R93 to R99, R111; 40_bitreader.md R132): a field read
back from its bits, the length code, and what PEEK gives where the stream at the cursor begins with given bits. -/

namespace Sys2Proof

/-! ## Bit strings and their values -/

theorem bitsOf_succ_eq_append (n v : Nat) : bitsOf (n + 1) v = bitsOf n (v / 2) ++ [v.testBit 0] := by
  induction n with
  | zero => rfl
  | succ n ih => rw [bitsOf, ih, bitsOf, List.cons_append, Nat.testBit_div_two]

theorem foldl_bitsOf (n v a : Nat) :
    (bitsOf n v).foldl (fun a b => 2 * a + b.toNat) a = a * 2 ^ n + v % 2 ^ n := by
  induction n generalizing v with
  | zero => simp [bitsOf, Nat.mod_one]
  | succ n ih =>
    have hbit : (v.testBit 0).toNat = v % 2 := Nat.toNat_testBit v 0 |>.trans (by simp)
    rw [bitsOf_succ_eq_append, List.foldl_append, ih, List.foldl_cons, List.foldl_nil, hbit, pow_succ', Nat.mod_mul]
    ring

theorem bitsValue_bitsOf (n v : Nat) : bitsValue (bitsOf n v) = v % 2 ^ n := by
  rw [bitsValue, foldl_bitsOf, Nat.zero_mul, Nat.zero_add]

theorem bitsOf_bitsValue (bs : List Bool) : bitsOf bs.length (bitsValue bs) = bs := by
  obtain ⟨v, hv, hbits⟩ := exists_bitsOf bs
  conv_lhs => rw [← hbits, length_bitsOf, bitsValue_bitsOf, Nat.mod_eq_of_lt hv]
  exact hbits

theorem bitsValue_lt (bs : List Bool) : bitsValue bs < 2 ^ bs.length := by
  obtain ⟨v, hv, hbits⟩ := exists_bitsOf bs
  rw [← hbits, bitsValue_bitsOf, length_bitsOf, Nat.mod_eq_of_lt hv]
  exact hv

theorem length_window (n : Nat) (bs : List Bool) : (bs.take n ++ List.replicate (n - bs.length) false).length = n := by
  simp only [List.length_append, List.length_take, List.length_replicate]
  omega

theorem leadingBits_lt (n : Nat) (bs : List Bool) : leadingBits n bs < 2 ^ n :=
  (bitsValue_lt _).trans_eq (by rw [length_window])

/-- What a bit string begins with, its leading n bits begin with. -/
theorem prefix_bitsOf_leadingBits {p bs : List Bool} {n : Nat} (h : p <+: bs) (hn : p.length ≤ n) :
    p <+: bitsOf n (leadingBits n bs) := by
  have hwindow := bitsOf_bitsValue (bs.take n ++ List.replicate (n - bs.length) false)
  rw [length_window] at hwindow
  rw [leadingBits, hwindow]
  exact (List.prefix_take_iff.mpr ⟨h, hn⟩).trans (List.prefix_append _ _)

/-- A bit string of n bits is all of its leading n bits, whatever follows it. -/
theorem leadingBits_append {n : Nat} {bs : List Bool} (h : bs.length = n) (rest : List Bool) :
    leadingBits n (bs ++ rest) = bitsValue bs := by
  rw [leadingBits, List.take_left' h, List.length_append, h, Nat.sub_add_eq, Nat.sub_self, Nat.zero_sub,
    List.replicate_zero, List.append_nil]

theorem drop_bitsOf_append (n v : Nat) (rest : List Bool) : (bitsOf n v ++ rest).drop n = rest :=
  List.drop_left' (length_bitsOf n v)

/-! ## The length code (30_encoding.md R95, 42_lh5_block_header.md R198) -/

theorem length_lengthCodeBits (l : Nat) : (lengthCodeBits l).length = lengthCodeWidth l := by
  unfold lengthCodeBits lengthCodeWidth
  split_ifs
  · rw [length_bitsOf]
  · rw [List.length_append, List.length_replicate, List.length_singleton]
    omega

theorem lengthCodeWidth_le {l : Nat} (hl : l ≤ 16) : lengthCodeWidth l ≤ 13 := by
  unfold lengthCodeWidth
  split_ifs <;> omega

theorem onesRun_eq_length_takeWhile (w n : Nat) : onesRun w n = ((bitsOf n w).takeWhile id).length := by
  induction n with
  | zero => rfl
  | succ n ih =>
    rw [onesRun, bitsOf, List.takeWhile_cons, ih]
    cases w.testBit n <;> rfl

/-- The top three bits of a 16-bit window. -/
theorem div_eq_of_prefix {w c : Nat} (hw : w < 2 ^ 16) (hc : c < 2 ^ 3) (h : bitsOf 3 c <+: bitsOf 16 w) :
    w / 2 ^ 13 = c := by
  have hiff := (bitsOf_prefix_iff (l := 3) (m := 13) hc hw).mp h
  omega

/-- m ones, 3 at least, and then a 0 or the end of the window: the extended form of value m + 4. -/
theorem lengthCodeValue_of_ones {w m : Nat} (hw : w < 2 ^ 16) (hm : 3 ≤ m) {tail : List Bool}
    (htail : tail.takeWhile id = []) (h : bitsOf 16 w = List.replicate m true ++ tail) :
    lengthCodeValue w = m + 4 := by
  obtain ⟨k, rfl⟩ := Nat.exists_eq_add_of_le' hm
  have htop : w / 2 ^ 13 = 7 := div_eq_of_prefix hw (by decide) ⟨List.replicate k true ++ tail, by rw [h]; rfl⟩
  have hlow : bitsOf 13 w = List.replicate k true ++ tail := by
    have := congrArg (List.drop 3) h
    exact this
  have hrun : onesRun w 13 = k := by
    rw [onesRun_eq_length_takeWhile, hlow, List.takeWhile_append_of_pos (by simp), htail, List.append_nil,
      List.length_replicate]
  rw [lengthCodeValue, htop, hrun]
  simp
  omega

/-- R198: a window that begins with the code of l has the value l. -/
theorem lengthCodeValue_of_prefix {l w : Nat} (hl : l ≤ 16) (hw : w < 2 ^ 16) (h : lengthCodeBits l <+: bitsOf 16 w) :
    lengthCodeValue w = l := by
  unfold lengthCodeBits at h
  split_ifs at h with hshort
  · have htop := div_eq_of_prefix hw (by omega) h
    simp only [lengthCodeValue, htop, if_pos hshort]
  · obtain ⟨rest, hrest⟩ := h
    rw [List.append_assoc] at hrest
    rw [lengthCodeValue_of_ones hw (by omega) (by rfl) hrest.symm]
    omega

/-! ## Fields (30_encoding.md R93 to R99, R111) -/

theorem decodeField_lengthCode {l : Nat} (hl : l ≤ 16) (rest : List Bool) :
    decodeField .lengthCode (lengthCodeBits l ++ rest) = some (.lengthCode l, rest) := by
  have hwidth := length_lengthCodeBits l
  have hvalue : lengthCodeValue (leadingBits 16 (lengthCodeBits l ++ rest)) = l := by
    refine lengthCodeValue_of_prefix hl (leadingBits_lt 16 _)
      (prefix_bitsOf_leadingBits (List.prefix_append _ _) ?_)
    have := lengthCodeWidth_le hl
    omega
  simp only [decodeField, hvalue, if_neg (Nat.not_lt.mpr hl), ← hwidth, List.drop_left]

/-- A field of n bits, read back. -/
theorem ofNat_leadingBits {n : Nat} (v : BitVec n) (rest : List Bool) :
    BitVec.ofNat n (leadingBits n (bitsOf n v.toNat ++ rest)) = v := by
  rw [leadingBits_append (length_bitsOf n _), bitsValue_bitsOf, Nat.mod_eq_of_lt v.isLt, BitVec.ofNat_toNat,
    BitVec.setWidth_eq]

theorem decodeField_extra {p e : Nat} (he : e < 2 ^ (p - 1)) (rest : List Bool) :
    decodeField (.extra p) (bitsOf (p - 1) e ++ rest) = some (.extra p e, rest) := by
  rw [decodeField, leadingBits_append (length_bitsOf _ _), bitsValue_bitsOf, Nat.mod_eq_of_lt he, drop_bitsOf_append]

/-- A byte of two nibbles (R111, R112). -/
theorem bitsValue_nibbles (a b : Nat) : bitsValue (bitsOf 4 a ++ bitsOf 4 b) = a % 16 * 16 + b % 16 := by
  have ha : (bitsOf 4 a).foldl (fun a b => 2 * a + b.toNat) 0 = a % 16 := bitsValue_bitsOf 4 a
  rw [bitsValue, List.foldl_append, ha, foldl_bitsOf]
  rfl

theorem decodeField_pair (f : BitVec 12) (lf : BitVec 4) (rest : List Bool) :
    decodeField .pair (bitsOf 8 f.toNat ++ (bitsOf 4 (f.toNat / 256) ++ bitsOf 4 lf.toNat) ++ rest) =
      some (.pair f lf, rest) := by
  have hnibbles : (bitsOf 4 (f.toNat / 256) ++ bitsOf 4 lf.toNat).length = 8 := rfl
  have hf := f.isLt
  have hlf := lf.isLt
  rw [List.append_assoc]
  simp only [decodeField, drop_bitsOf_append, leadingBits_append (length_bitsOf 8 _), leadingBits_append hnibbles,
    bitsValue_bitsOf, bitsValue_nibbles]
  have hF : BitVec.ofNat 12 (f.toNat % 2 ^ 8 + 256 * ((f.toNat / 256 % 16 * 16 + lf.toNat % 16) / 16)) = f := by
    apply BitVec.eq_of_toNat_eq
    rw [BitVec.toNat_ofNat]
    omega
  have hLF : BitVec.ofNat 4 (f.toNat / 256 % 16 * 16 + lf.toNat % 16) = lf := by
    apply BitVec.eq_of_toNat_eq
    rw [BitVec.toNat_ofNat]
    omega
  have hlen : ¬ (bitsOf 8 f.toNat ++ (bitsOf 4 (f.toNat / 256) ++ bitsOf 4 lf.toNat ++ rest)).length < 16 := by
    simp only [List.length_append, length_bitsOf]
    omega
  rw [if_neg hlen, hF, hLF]
  rfl

/-- An LZSS byte, which R121 does not allow to be cut short. -/
theorem byte_not_short (v : Byte) (rest : List Bool) : ¬ (bitsOf 8 v.toNat ++ rest).length < 8 := by
  rw [List.length_append, length_bitsOf]
  omega

/-- Settles O43: a field of fixed width is the leading bits of what begins with it; a length code is recognised in the
window it begins; a pair is its two bytes, the second of them two nibbles. -/
theorem fieldDecodeEncodeAgree : Obligations.FieldDecodeEncodeAgree := by
  intro f rest hf
  cases f with
  | lengthCode l => exact decodeField_lengthCode (of_decide_eq_true hf) rest
  | extra p e =>
    simp only [StreamField.wellFormed, Bool.and_eq_true, decide_eq_true_eq] at hf
    obtain ⟨-, he⟩ := hf
    exact decodeField_extra he rest
  | pair f lf => exact decodeField_pair f lf rest
  | control v | literal v =>
    simp only [StreamField.kind, encodeField, decodeField, if_neg (byte_not_short v rest), ofNat_leadingBits,
      drop_bitsOf_append]
  | blockCount v | tCount v | tSymbol v | tSkip v | cCount v | cSymbol v | shortRun v | longRun v | pCount v
  | pSymbol v =>
    simp only [StreamField.kind, encodeField, decodeField, ofNat_leadingBits, drop_bitsOf_append]

/-- Settles O42: closed patterns, which the decoders evaluate. -/
theorem encodedWordsDecode : Obligations.EncodedWordsDecode := by
  refine ⟨?_, ?_, ?_, ?_, ?_, rfl, rfl, rfl, rfl, rfl, rfl, rfl, rfl, rfl, rfl⟩ <;> decide

end Sys2Proof

namespace Sys2Proof.Machine

/-! ## The stream at the cursor (40_bitreader.md R132) -/

theorem State.bitsOf_bitsFrom (s : State) (k n : Nat) :
    bitsOf n (s.bitsFrom k n) = (List.range n).map fun i => s.streamBit (k + i) := by
  induction n with
  | zero => rfl
  | succ n ih =>
    have hhalf : s.bitsFrom k (n + 1) / 2 = s.bitsFrom k n := by
      have := Bool.toNat_lt (s.streamBit (k + n))
      rw [State.bitsFrom]
      omega
    have hlast : (s.bitsFrom k (n + 1)).testBit 0 = s.streamBit (k + n) := by
      rw [State.bitsFrom, Nat.testBit_zero]
      cases s.streamBit (k + n) <;> simp
    rw [bitsOf_succ_eq_append, hhalf, hlast, ih, List.range_succ, List.map_append, List.map_singleton]

/-- The bits of PEEK(n), the first the most significant. -/
theorem State.testBit_peek (s : State) {n i : Nat} (hi : i < n) :
    (s.peek n).testBit (n - (i + 1)) = s.streamBit (s.bitpos + i) := by
  have hbits := congrArg (·[i]?) (s.bitsOf_bitsFrom s.bitpos n)
  rw [State.peek]
  simpa only [getElem?_bitsOf hi, List.getElem?_map, List.getElem?_range hi, Option.map_some, Option.some_inj] using
    hbits

theorem State.peek_lt (s : State) (n : Nat) : s.peek n < 2 ^ n := s.bitsFrom_lt s.bitpos n

@[simp] theorem State.streamBit_consume (s : State) (n k : Nat) : (s.consume n).streamBit k = s.streamBit k := rfl

@[simp] theorem State.reads_nil (s : State) : s.reads [] := fun _ hi => absurd hi (Nat.not_lt_zero _)

/-- The stream begins with two strings one after the other when it begins with the first and goes on with the second. -/
theorem State.reads_append {s : State} {a b : List Bool} :
    s.reads (a ++ b) ↔ s.reads a ∧ (s.consume a.length).reads b := by
  have hbit (i : Nat) : (s.consume a.length).streamBit ((s.consume a.length).bitpos + i) =
      s.streamBit (s.bitpos + (a.length + i)) := by
    rw [State.consume_bitpos, Nat.add_assoc, State.streamBit_consume]
  simp only [State.reads, hbit, List.length_append]
  refine ⟨fun h => ⟨fun i hi => ?_, fun i hi => ?_⟩, fun ⟨ha, hb⟩ i hi => ?_⟩
  · rw [h i (by omega), List.getD_append _ _ _ _ hi]
  · rw [h _ (by omega), List.getD_append_right _ _ _ _ (by omega), Nat.add_sub_cancel_left]
  · by_cases hlt : i < a.length
    · rw [List.getD_append _ _ _ _ hlt, ha i hlt]
    · have hnext := hb (i - a.length) (by omega)
      rwa [Nat.add_sub_cancel' (by omega), ← List.getD_append_right _ _ _ _ (by omega)] at hnext

/-- The stream begins with a string when the window of PEEK does. -/
theorem State.reads_iff_prefix_peek {s : State} {bits : List Bool} {n : Nat} (hn : bits.length ≤ n) :
    s.reads bits ↔ bits <+: bitsOf n (s.peek n) := by
  rw [State.peek, State.bitsOf_bitsFrom, List.prefix_iff_getElem?]
  refine forall₂_congr fun i hi => ?_
  rw [List.getElem?_map, List.getElem?_range (by omega), Option.map_some, Option.some_inj, List.getD_eq_getElem _ _ hi]

/-- PEEK(n) is the field at the head of the stream. -/
theorem State.peek_of_reads {s : State} {n v : Nat} (hv : v < 2 ^ n) (h : s.reads (bitsOf n v)) : s.peek n = v := by
  have hpre := (State.reads_iff_prefix_peek (length_bitsOf n v).le).mp h
  have heq := hpre.eq_of_length (by rw [length_bitsOf, length_bitsOf])
  exact ((bitsOf_inj hv (s.peek_lt n)).mp heq).symm

/-- SBIT is 0 past the end of IN. -/
theorem State.streamBit_past_end {s : State} {k : Nat} (hk : 8 * s.inLen.toNat ≤ k) : s.streamBit k = false :=
  if_neg (by omega)

theorem State.peek_past_end {s : State} (hk : 8 * s.inLen.toNat ≤ s.bitpos) (n : Nat) : s.peek n = 0 := by
  refine State.peek_of_reads (Nat.two_pow_pos n) fun i hi => ?_
  rw [length_bitsOf] at hi
  rw [State.streamBit_past_end (by omega), List.getD_eq_getElem?_getD, getElem?_bitsOf hi, Nat.zero_testBit,
    Option.getD_some]

/-! ## BR.PEEK and BR.GET (R132, R134, R135) -/

theorem exec_brPeek_of_le {n : Nat} (hn : n ≤ Config.peekMax) (s : State) :
    exec (.brPeek n) s = .next { s with unitResult := s.peek n } :=
  if_pos hn

theorem exec_brGet_of_le {n : Nat} (hn : n ≤ Config.peekMax) (s : State) :
    exec (.brGet n) s = .next { s.consume n with unitResult := s.peek n } :=
  if_pos hn

/-- Settles O2: within the reader's width PEEK(n) is the field at the cursor (State.peek_eq_fieldValue), 0 where every
bit lies past the end; wider reads are refused by their guard. -/
theorem brPeekAndGetReturnStreamBits : Obligations.BrPeekAndGetReturnStreamBits := by
  intro s n
  refine ⟨fun hn => ⟨?_, ?_, fun hend => ?_⟩, fun hn => ?_⟩
  · rw [exec_brPeek_of_le hn, State.peek_eq_fieldValue]
  · rw [exec_brGet_of_le hn, State.peek_eq_fieldValue]
    rfl
  · rw [exec_brPeek_of_le hn, State.peek_past_end hend]
  · have hwide : ¬ n ≤ Config.peekMax := Nat.not_le.mpr hn
    exact ⟨if_neg hwide, if_neg hwide, if_neg hwide⟩

/-! ## LC.LEN and LC.TSKIP (R198, R199) -/

/-- LC.LEN where the code of l stands at the cursor. -/
theorem lengthCode_of_reads {s : State} {l : Nat} (hl : l ≤ 16) (h : s.reads (lengthCodeBits l)) :
    lengthCode s = .ok l (s.consume (lengthCodeBits l).length) := by
  have hlen := length_lengthCodeBits l
  have hwidth := lengthCodeWidth_le hl
  have hvalue : lengthCodeValue (s.peek 16) = l :=
    lengthCodeValue_of_prefix hl (s.peek_lt 16) ((State.reads_iff_prefix_peek (by omega)).mp h)
  simp only [lengthCode, hvalue, if_neg (Nat.not_lt.mpr hl), hlen]

/-- LC.LEN where thirteen ones and j more stand at the cursor. -/
theorem lengthCode_of_readsLongCode {s : State} {j : Nat} (hj : j ≤ 3) (h : s.readsLongCode [] j) :
    lengthCode s = raise (.malformedTable .lenGt16 (17 + j)) s := by
  obtain ⟨hones, hstop⟩ := h
  rw [List.nil_append] at hones
  obtain ⟨tail, htail, hwindow⟩ :
      ∃ tail : List Bool, tail.takeWhile id = [] ∧ bitsOf 16 (s.peek 16) = List.replicate (13 + j) true ++ tail := by
    obtain rfl | hlt := hj.eq_or_lt
    · have hpre := (State.reads_iff_prefix_peek (n := 16) (by simp)).mp hones
      exact ⟨[], rfl, by rw [List.append_nil]; exact (hpre.eq_of_length (by simp)).symm⟩
    · have hzero : s.reads (List.replicate (13 + j) true ++ [false]) := by
        refine State.reads_append.mpr ⟨hones, fun i hi => ?_⟩
        obtain rfl : i = 0 := Nat.lt_one_iff.mp hi
        simpa using hstop hlt
      obtain ⟨rest, hrest⟩ := (State.reads_iff_prefix_peek (n := 16) (by simp; omega)).mp hzero
      exact ⟨false :: rest, rfl, by rw [← hrest, List.append_assoc, List.singleton_append]⟩
  have hvalue : lengthCodeValue (s.peek 16) = 17 + j := by
    rw [lengthCodeValue_of_ones (s.peek_lt 16) (by omega) htail hwindow]
    omega
  have habove : Config.maxLen < 17 + j := Nat.lt_add_right j (by decide)
  simp only [lengthCode, hvalue, if_pos habove]

/-- After the bits of what stands before it, a long code stands at the cursor. -/
theorem State.readsLongCode_append {s : State} {a b : List Bool} {j : Nat} :
    s.readsLongCode (a ++ b) j ↔ s.reads a ∧ (s.consume a.length).readsLongCode b j := by
  have hbit : s.streamBit (s.bitpos + (a ++ b).length + (13 + j)) =
      (s.consume a.length).streamBit ((s.consume a.length).bitpos + b.length + (13 + j)) := by
    rw [State.consume_bitpos, List.length_append, ← Nat.add_assoc s.bitpos, State.streamBit_consume]
  rw [State.readsLongCode, State.readsLongCode, List.append_assoc, State.reads_append, hbit, and_assoc]

theorem State.peek_two (s : State) :
    s.peek 2 = 2 * (s.streamBit s.bitpos).toNat + (s.streamBit (s.bitpos + 1)).toNat := by
  simp only [State.peek, State.bitsFrom, Nat.mul_zero, Nat.zero_add, Nat.add_zero]

theorem exec_lcTskip (s : State) : exec .lcTskip s = .next { s.consume 2 with unitResult := s.peek 2 } := rfl

/-- Settles O10: the code of l, or thirteen ones and more, stand in the window LC.LEN looks at; LC.TSKIP is GET(2). -/
theorem lengthFieldsAreReadOrRejected : Obligations.LengthFieldsAreReadOrRejected := by
  intro s
  refine ⟨fun l hl h => ?_, fun j hj h => ?_, ?_⟩
  · have hexec : exec .lcLen s = (lengthCode s).toUnitOutcome := rfl
    rw [hexec, lengthCode_of_reads hl h, length_lengthCodeBits]
    rfl
  · have hexec : exec .lcLen s = (lengthCode s).toUnitOutcome := rfl
    rw [hexec, lengthCode_of_readsLongCode hj h]
    rfl
  · rw [exec_lcTskip, State.peek_two]
    rfl

end Sys2Proof.Machine
end

section
/-! Proofs about a built table and a single-symbol table (41_huffman_table.md R156, R157, R160, R165, R170, R171): what
HT.BUILD rejects, and that after it DECODE is the canonical code. -/

namespace Sys2Proof

/-- Two codes at the head of one string are codes of one symbol. -/
theorem CompleteLengths.eq_of_code_prefixes {lens : List Nat} (hc : CompleteLengths lens) {v v' : Nat}
    (hv : 0 < lens.getD v 0) (hv' : 0 < lens.getD v' 0) {bits : List Bool} (h : codeBits lens v <+: bits)
    (h' : codeBits lens v' <+: bits) : v = v' := by
  rcases List.prefix_or_prefix_of_prefix h h' with hpre | hpre
  · exact hc.eq_of_code_prefix hv hv' hpre
  · exact (hc.eq_of_code_prefix hv' hv hpre).symm

theorem Alphabet.tableBits_lt (x : Alphabet) : x.tableBits < 16 := by cases x <;> decide

end Sys2Proof

namespace Sys2Proof.Machine

theorem exec_htBuild (x : Alphabet) (s : State) : exec (.htBuild x) s = (buildTable x s).toOutcome := rfl

theorem exec_htConst (x : Alphabet) (c : Nat) (s : State) : exec (.htConst x c) s = (constTable x c s).toOutcome := rfl

theorem exec_htDecode (x : Alphabet) (s : State) : exec (.htDecode x) s = (decodeSymbol x s).toUnitOutcome := rfl

/-- LEN_X[v] is the entry of LEN_X as naturals. -/
theorem TableUnit.lenOf_eq_getD_lens (u : TableUnit) (v : Nat) : u.lenOf v = u.lens.getD v 0 := by
  rw [TableUnit.lenOf, TableUnit.lens, List.getD_eq_getElem?_getD, List.getD_eq_getElem?_getD, List.getElem?_map]
  cases u.len[v]? <;> rfl

/-! ## What HT.BUILD rejects (R156, R157) -/

theorem lengthAbove16_eq_none {lens : List Nat} : lengthAbove16 lens = none ↔ ∀ l ∈ lens, l ≤ 16 := by
  simp [lengthAbove16]

/-- Part 1 reports the length of the lowest symbol that has one above 16. -/
theorem lengthAbove16_eq_some {lens : List Nat} {i : Nat} (hi : 16 < lens.getD i 0)
    (hbefore : ∀ j, j < i → lens.getD j 0 ≤ 16) : lengthAbove16 lens = some (lens.getD i 0) := by
  have hlt := lt_length_of_coded (Nat.zero_lt_of_lt hi)
  refine List.find?_eq_some_iff_getElem.mpr ⟨decide_eq_true hi, i, hlt, (List.getD_eq_getElem _ _ hlt).symm, ?_⟩
  intro j hj
  have hle := hbefore j hj
  rw [List.getD_eq_getElem _ _ (hj.trans hlt)] at hle
  simpa using hle

/-- Settles O3: the two tests of BUILD come before every write, and raise with the state as it was; the total by lengths
is the weight by symbols. -/
theorem htBuildRejectsBadLengths : Obligations.HtBuildRejectsBadLengths := by
  intro x s
  refine ⟨fun i hi hbefore => ?_, fun hle hweight => ?_⟩
  · have hfirst := lengthAbove16_eq_some hi hbefore
    rw [exec_htBuild, buildTable, hfirst]
    rfl
  · have htotal : codeSpaceTotal (s.unit x).lens = (s.unit x).weight := codeSpaceTotal_eq_sum hle
    rw [exec_htBuild, buildTable, lengthAbove16_eq_none.mpr hle]
    dsimp only
    rw [htotal, if_pos hweight]
    rfl

/-! ## The codes a built table gives (R162, R170, R171) -/

theorem TableUnit.complete_of_weight {u : TableUnit} (hle : ∀ l ∈ u.lens, l ≤ 16) (hw : u.weight = 65536) :
    CompleteLengths u.lens :=
  completeLengths_of_weight hle hw

section
variable {x : Alphabet} {u₀ u : TableUnit}

/-- The walk of DECODE from a cell on the window's own path ends in a symbol whose code begins the window. -/
theorem TableUnit.HoldsCodes.treeWalk_eq_some (h : HoldsCodes x u₀ x.size u) (hc : CompleteLengths u₀.lens) {w : Nat}
    {fuel d v : Nat} {c : CellRef} (hfuel : d + fuel = 16) (hp : u.Reaches x ((bitsOf 16 w).take d) c)
    (hr : u.readCell x c = some v) :
    ∃ v', treeWalk x u w fuel d v = some v' ∧ v' < x.size ∧ 0 < u₀.lens.getD v' 0 ∧
      codeBits u₀.lens v' <+: bitsOf 16 w := by
  have hsymbol (hv : v < x.size) : 0 < u₀.lens.getD v 0 ∧ codeBits u₀.lens v <+: bitsOf 16 w := by
    obtain ⟨-, hcoded, hpre⟩ := h.symbol _ _ _ hp hr hv
    exact ⟨hcoded, hpre.trans (List.take_prefix _ _)⟩
  induction fuel generalizing d v c with
  | zero =>
    by_cases hv : v < x.size
    · exact ⟨v, if_pos hv, hv, hsymbol hv⟩
    · have hinner := (h.node _ _ _ hp hr (not_lt.mp hv)).2.length_lt hc
      rw [List.length_take, length_bitsOf] at hinner
      omega
  | succ fuel ih =>
    by_cases hv : v < x.size
    · exact ⟨v, if_pos hv, hv, hsymbol hv⟩
    · have hpath : (bitsOf 16 w).take (d + 1) = (bitsOf 16 w).take d ++ [w.testBit (16 - (d + 1))] := by
        rw [List.take_add_one, getElem?_bitsOf (by omega)]
        rfl
      have hnext := TableUnit.Reaches.child (w.testBit (16 - (d + 1))) hp hr (not_lt.mp hv)
      rw [← hpath] at hnext
      have hlen : ((bitsOf 16 w).take (d + 1)).length ≤ 16 := (List.length_take_le _ _).trans (by omega)
      obtain ⟨v', hv'⟩ := Option.ne_none_iff_exists'.mp (h.ne_none hc hnext hlen)
      have hcell : u.readCell x (if w.testBit (16 - (d + 1)) then .right v else .left v) = some v' := hv'
      obtain ⟨y, hwalk, hy⟩ := ih (by omega) hnext hv' fun hlt => by
        obtain ⟨-, hcoded, hpre⟩ := h.symbol _ _ _ hnext hv' hlt
        exact ⟨hcoded, hpre.trans (List.take_prefix _ _)⟩
      refine ⟨y, ?_, hy⟩
      rw [treeWalk, if_neg hv, hcell]
      exact hwalk

/-- R171: a window decodes to the symbol whose code begins it. -/
theorem TableUnit.HoldsCodes.symbolAt_eq_some (h : HoldsCodes x u₀ x.size u) (hc : CompleteLengths u₀.lens) {w : Nat}
    (hw : w < 2 ^ 16) :
    ∃ v, u.symbolAt x w = some v ∧ v < x.size ∧ 0 < u₀.lens.getD v 0 ∧ codeBits u₀.lens v <+: bitsOf 16 w := by
  have hsplit : x.tableBits + (16 - x.tableBits) = 16 := Nat.add_sub_cancel' x.tableBits_le
  have hslot : w / 2 ^ (16 - x.tableBits) < 2 ^ x.tableBits :=
    Nat.div_lt_of_lt_mul (by rwa [← pow_add, add_comm, hsplit])
  have hpath : (bitsOf 16 w).take x.tableBits = bitsOf x.tableBits (w / 2 ^ (16 - x.tableBits)) := by
    rw [← take_bitsOf, hsplit]
  have hp : u.Reaches x ((bitsOf 16 w).take x.tableBits) (.table (w / 2 ^ (16 - x.tableBits))) := hpath ▸ .table hslot
  obtain ⟨v, hv⟩ := Option.ne_none_iff_exists'.mp (h.ne_none hc hp (by simp))
  obtain ⟨v', hwalk, hv'⟩ := h.treeWalk_eq_some hc hsplit hp hv
  refine ⟨v', ?_, hv'⟩
  rw [TableUnit.symbolAt, hv]
  exact hwalk

theorem TableUnit.HoldsCodes.constV_eq_false {s : State} (h : HoldsCodes x ((s.unit x).cleared x) x.size u) :
    u.constV = false := by
  obtain ⟨-, hconstV, -⟩ := h.registers
  exact hconstV

theorem TableUnit.HoldsCodes.lenOf_eq {s : State} (h : HoldsCodes x ((s.unit x).cleared x) x.size u) (v : Nat) :
    u.lenOf v = (s.unit x).lenOf v := by
  obtain ⟨hlen, -⟩ := h.registers
  rw [TableUnit.lenOf, hlen]
  rfl

/-- Settles O6: the window of DECODE begins with one code, that of the symbol its walk ends in; what the window begins
with is what the stream holds at the cursor. -/
theorem htBuildDecodesCanonicalCode : Obligations.HtBuildDecodesCanonicalCode := by
  intro x s hlen hle hweight
  have hc := TableUnit.complete_of_weight hle hweight
  obtain ⟨u, hexec, h⟩ := exec_htBuild_of_complete hlen hc
  refine ⟨s.setUnit x u, hexec, fun r hr => ?_⟩
  rw [State.unit_setUnit_same] at hr
  obtain ⟨v, hsymbol, hv, hcoded, hpre⟩ := h.symbolAt_eq_some hc (r.peek_lt 16)
  have hreads (v' : Nat) : r.reads (codeBits (s.unit x).lens v') ↔
      codeBits (s.unit x).lens v' <+: bitsOf 16 (r.peek 16) :=
    State.reads_iff_prefix_peek (by rw [hc.length_codeBits]; exact hc.getD_le v')
  refine ⟨v, hv, by rwa [TableUnit.lenOf_eq_getD_lens], (hreads v).mpr hpre, ?_, fun v' hv' h' => ?_⟩
  · have hcode : r.codeAt x v (u.lenOf v) := by
      refine .inr ⟨hr ▸ h.constV_eq_false, ?_, by rw [hr]⟩
      rw [hr, ← State.peek_eq_fieldValue, hsymbol]
    rw [exec_htDecode, decodeSymbol_of_codeAt hcode, h.lenOf_eq]
    rfl
  · rw [TableUnit.lenOf_eq_getD_lens] at hv'
    exact hc.eq_of_code_prefixes hv' hcoded ((hreads v').mp h') hpre

/-- R32, R162: a unit that BUILD has accepted decodes every window. -/
theorem buildTable_decodes {s t : State} (hlen : (s.unit x).len.length = x.size) (ht : buildTable x s = .ok () t) :
    (t.unit x).decodes x := by
  have hnext : exec (.htBuild x) s = .next t := Res.toOutcome_eq_next.mpr (.inl ht)
  rcases buildTable_cases x s with ⟨_, -, e⟩ | ⟨-, -, e⟩ | ⟨-, -, _, -, e⟩ | ⟨hle, htotal, -⟩
  · cases ht.symm.trans e
  · cases ht.symm.trans e
  · cases ht.symm.trans e
  have hc : CompleteLengths (s.unit x).lens :=
    ⟨lengthAbove16_eq_none.mp hle, (codeSpaceTotal_eq_firstCode _).symm.trans htotal⟩
  obtain ⟨u, hexec, h⟩ := exec_htBuild_of_complete hlen hc
  obtain rfl : s.setUnit x u = t := Host.Outcome.next.inj (hexec.symm.trans hnext)
  rw [State.unit_setUnit_same]
  refine .inr ⟨h.constV_eq_false, fun w hw => ?_⟩
  obtain ⟨v, hsymbol, hv, hcoded, -⟩ := h.symbolAt_eq_some hc hw
  have hlenOf : u.lenOf v = (s.unit x).lens.getD v 0 := by rw [h.lenOf_eq, TableUnit.lenOf_eq_getD_lens]
  exact ⟨v, hsymbol, hv, hlenOf ▸ hcoded, hlenOf ▸ hc.getD_le v⟩

/-- Where no code goes on beyond TB bits, no path is that of an inner node. -/
theorem TableUnit.Reaches.not_innerPath {p : List Bool} {c : CellRef} (hp : u.Reaches x p c) {lens : List Nat}
    (hc : CompleteLengths lens) (hflat : ∀ l ∈ lens, l ≤ x.tableBits) : ¬ InnerPath lens p := by
  rintro ⟨v, hv, hpre, hne⟩
  have hlt := lt_length_of_coded hv
  have hle := hflat _ (List.getElem_mem hlt)
  rw [← List.getD_eq_getElem _ 0 hlt] at hle
  refine hne (hpre.eq_of_length_le ?_)
  rw [hc.length_codeBits]
  exact hle.trans hp.tableBits_le_length

/-- R160: such a table has no node, and each entry holds the symbol whose code begins its index. -/
theorem TableUnit.HoldsCodes.flat (h : HoldsCodes x u₀ x.size u) (hc : CompleteLengths u₀.lens)
    (hflat : ∀ l ∈ u₀.lens, l ≤ x.tableBits) :
    u.avail = x.size ∧ ∀ j, j < 2 ^ x.tableBits → ∃ v, u.table.getD j none = some v ∧ v < x.size ∧
      0 < u₀.lens.getD v 0 ∧ codeBits u₀.lens v <+: bitsOf x.tableBits j := by
  refine ⟨le_antisymm (not_lt.mp fun hlt => ?_) h.size_le_avail, fun j hj => ?_⟩
  · obtain ⟨p, c, hp, hr⟩ := h.owned x.size le_rfl hlt
    exact hp.not_innerPath hc hflat (h.node _ _ _ hp hr le_rfl).2
  · have hp : u.Reaches x (bitsOf x.tableBits j) (.table j) := .table hj
    obtain ⟨v, hv⟩ := Option.ne_none_iff_exists'.mp (h.ne_none hc hp (by simpa using x.tableBits_le))
    have hsymbol : v < x.size := not_le.mp fun hnode => hp.not_innerPath hc hflat (h.node _ _ _ hp hv hnode).2
    obtain ⟨-, hcoded, hpre⟩ := h.symbol _ _ _ hp hv hsymbol
    exact ⟨v, hv, hsymbol, hcoded, hpre⟩

end

/-- Settles O4: every entry of the flat table holds a symbol, as no code goes on beyond TB bits, and that symbol's code
begins the entry's index. -/
theorem htBuildFillsFlatTable : Obligations.HtBuildFillsFlatTable := by
  intro x s hlen hflat hweight
  have hc := TableUnit.complete_of_weight (fun l hl => (hflat l hl).trans x.tableBits_le) hweight
  obtain ⟨u, hexec, h⟩ := exec_htBuild_of_complete hlen hc
  obtain ⟨hkept, hconstV, hconstSym⟩ := h.registers
  obtain ⟨havail, hentries⟩ := h.flat hc hflat
  refine ⟨u, hexec, hkept, hconstV, hconstSym, havail, fun j hj => ?_⟩
  obtain ⟨v, hentry, hv, hcoded, hpre⟩ := hentries j hj
  have hlens : u.lens = (s.unit x).lens := congrArg (List.map BitVec.toNat) hkept
  have hlenOf : u.lenOf v = (s.unit x).lens.getD v 0 := by rw [h.lenOf_eq, TableUnit.lenOf_eq_getD_lens]
  refine ⟨v, hentry, hv, hlenOf ▸ hcoded, ?_⟩
  rw [hlens, hlenOf, ← hc.length_codeBits v]
  exact (List.prefix_iff_eq_take.mp hpre).symm

/-! ## HT.CONST and HT.DECODE (R165, R170) -/

/-- Settles O7: within the alphabet HT.CONST sets the unit, whose CONST_X decides DECODE; outside it raises. -/
theorem htConstSetsOrRejects : Obligations.HtConstSetsOrRejects := by
  intro x c s
  rcases constTable_cases x c s with ⟨hc, e⟩ | ⟨hc, e⟩
  · refine ⟨fun _ => ⟨_, by rw [exec_htConst, e]; rfl, rfl, ?_⟩, fun hle => absurd hc (not_lt.mpr hle)⟩
    refine decodeSymbol_of_codeAt (w := 0) (.inl ?_)
    rw [State.unit_setUnit_same]
    exact ⟨rfl, rfl, rfl⟩
  · refine ⟨fun hlt => absurd hc (not_le.mpr hlt), fun _ => ?_⟩
    rw [exec_htConst, e]
    rfl

theorem treeWalk_symbol {x : Alphabet} {u : TableUnit} {w d v : Nat} (fuel : Nat) (hv : v < x.size) :
    treeWalk x u w fuel d v = some v := by
  cases fuel <;> exact if_pos hv

/-- One step of the walk, from a node to a symbol. -/
theorem treeWalk_node {x : Alphabet} {u : TableUnit} {w k n d v : Nat} (hd : x.size ≤ d) (hv : v < x.size) (hk : k < n)
    (hstep : u.readCell x (if w.testBit (16 - (k + 1)) then .right d else .left d) = some v) :
    treeWalk x u w (n - k) k d = some v := by
  obtain ⟨fuel, hfuel⟩ := Nat.exists_eq_succ_of_ne_zero (Nat.sub_ne_zero_of_lt hk)
  rw [hfuel, treeWalk, if_neg (not_lt.mpr hd), hstep]
  exact treeWalk_symbol fuel hv

/-- Settles O8: the single symbol, the symbol in the flat entry, and the symbol one step below a node are what DECODE
gives at the cursor; where it gives none, it draws a free symbol. -/
theorem htDecodeReadsConstEntryOrNode : Obligations.HtDecodeReadsConstEntryOrNode := by
  intro x s
  have hdecode {v w : Nat} (h : s.codeAt x v w) :
      exec (.htDecode x) s = .next { s with unitResult := v, bitpos := s.bitpos + w } := by
    rw [exec_htDecode, decodeSymbol_of_codeAt h]
    rfl
  refine ⟨fun hconst => hdecode (.inl ⟨hconst, rfl, rfl⟩), fun v hbuilt hv hentry => ?_,
    fun v d hbuilt hv hd hentry hchild => ?_, fun hbuilt hnone => ?_⟩
  · refine hdecode (.inr ⟨hbuilt, ?_, rfl⟩)
    have hcell : (s.unit x).readCell x (.table (s.fieldValue 16 / 2 ^ (16 - x.tableBits))) = some v := hentry
    rw [TableUnit.symbolAt, hcell]
    exact treeWalk_symbol _ hv
  · refine hdecode (.inr ⟨hbuilt, ?_, rfl⟩)
    have hcell : (s.unit x).readCell x (.table (s.fieldValue 16 / 2 ^ (16 - x.tableBits))) = some d := hentry
    have hstep : (s.unit x).readCell x
        (if (s.fieldValue 16).testBit (16 - (x.tableBits + 1)) then .right d else .left d) = some v := by
      rw [← State.peek_eq_fieldValue, s.testBit_peek x.tableBits_lt]
      cases hbit : s.streamBit (s.bitpos + x.tableBits) <;> simpa [hbit, TableUnit.readCell, hd] using hchild
    rw [TableUnit.symbolAt, hcell]
    exact treeWalk_node hd hv x.tableBits_lt hstep
  · rcases decodeSymbol_cases x s with ⟨hconst, -⟩ | ⟨-, v, hsome, -⟩ | ⟨-, -, hlt, e⟩
    · cases hconst.symm.trans hbuilt
    · rw [State.peek_eq_fieldValue, hnone] at hsome
      cases hsome
    · refine ⟨s.freeSymbol x, hlt, ?_⟩
      rw [exec_htDecode, e]
      rfl

end Sys2Proof.Machine
end

section
/-! Proofs about the three sections of a block header (42_lh5_block_header.md R195 to R215): the count field, the
single-symbol form, and the lengths that the loops read where the stream holds the codes of given lengths or items. -/

namespace Sys2Proof.Machine

/-! ## The state around a section -/

@[simp] theorem State.consume_zero (s : State) : s.consume 0 = s := rfl

theorem State.consume_consume (s : State) (m n : Nat) : (s.consume m).consume n = s.consume (m + n) := by
  rw [State.consume, State.consume, State.consume, Nat.add_assoc]

/-- LEN_X holding the listed lengths, and 0 after them. -/
def State.withLens (s : State) (x : Alphabet) (ls : List Nat) : State :=
  s.setUnit x { s.unit x with len := ls.map (BitVec.ofNat 5) ++ List.replicate (x.size - ls.length) 0#5 }

section
variable (s : State) (x : Alphabet) (ls : List Nat)

theorem State.clearLens_eq_withLens : s.clearLens x = s.withLens x [] := rfl

theorem State.withLens_consume (n : Nat) : (s.withLens x ls).consume n = (s.consume n).withLens x ls := by
  cases x <;> rfl

theorem State.reads_setUnit (u : TableUnit) (bits : List Bool) : (s.setUnit x u).reads bits ↔ s.reads bits := by
  cases x <;> rfl

@[simp] theorem State.reads_withLens {bits : List Bool} : (s.withLens x ls).reads bits ↔ s.reads bits := by
  cases x <;> rfl

@[simp] theorem State.readsLongCode_withLens {before : List Bool} {j : Nat} :
    (s.withLens x ls).readsLongCode before j ↔ s.readsLongCode before j := by
  cases x <;> rfl

@[simp] theorem State.tabT_withLens_c : (s.withLens .c ls).tabT = s.tabT := rfl

/-- LEN_X[i] <- l at the first index not yet listed. -/
theorem State.setLen_withLens {l : Nat} (h : ls.length < x.size) :
    (s.withLens x ls).setLen x ls.length l = s.withLens x (ls ++ [l]) := by
  have hrep : List.replicate (x.size - ls.length) 0#5 = 0#5 :: List.replicate (x.size - (ls.length + 1)) 0#5 := by
    rw [← List.replicate_succ]
    congr 1
    omega
  have hlen : (List.map (BitVec.ofNat 5) ls).length = ls.length := List.length_map ..
  have hset :
      (List.map (BitVec.ofNat 5) ls ++ List.replicate (x.size - ls.length) 0#5).set ls.length (BitVec.ofNat 5 l) =
      List.map (BitVec.ofNat 5) (ls ++ [l]) ++ List.replicate (x.size - (ls ++ [l]).length) 0#5 := by
    rw [hrep, List.set_append_right _ _ hlen.le, hlen, Nat.sub_self, List.set_cons_zero, List.map_append,
      List.map_singleton, List.append_assoc, List.singleton_append, List.length_append, List.length_singleton]
  rw [State.setLen, State.withLens, State.unit_setUnit_same, State.setUnit_setUnit]
  dsimp only
  rw [hset, State.withLens]

/-- Lengths 0 need no store. -/
theorem State.withLens_append_zeros {k : Nat} (h : ls.length + k ≤ x.size) :
    s.withLens x (ls ++ List.replicate k 0) = s.withLens x ls := by
  have hzeros : List.map (BitVec.ofNat 5) (ls ++ List.replicate k 0) ++
      List.replicate (x.size - (ls ++ List.replicate k 0).length) 0#5 =
      List.map (BitVec.ofNat 5) ls ++ List.replicate (x.size - ls.length) 0#5 := by
    rw [List.map_append, List.map_replicate, List.append_assoc, List.length_append, List.length_replicate]
    congr 1
    rw [show x.size - ls.length = k + (x.size - (ls.length + k)) by omega, List.replicate_add]
  rw [State.withLens, hzeros, State.withLens]

end

/-! ## The count field and the single-symbol form (R165, R196, R205, R214) -/

/-- The loop over the length codes of X's section, for a count n. -/
def lengthLoop (x : Alphabet) (n : Nat) (s : State) : Res Unit :=
  match x with
  | .t => tLengths n n 0 s
  | .c => cLengths n n 0 s
  | .p => pLengths n 0 s

/-- The header part that reads X's section. -/
def sectionPart (x : Alphabet) (s : State) : Res Unit :=
  match x with
  | .t => tSection s
  | .c => cSection s
  | .p => pSection s

theorem exec_sectionInstr (x : Alphabet) (s : State) : exec x.sectionInstr s = (sectionPart x s).toOutcome := by
  cases x <;> rfl

/-- What the three sections do with their count n = GET(countBits). -/
theorem sectionPart_eq (x : Alphabet) (s : State) :
    sectionPart x s =
      if s.peek x.countBits = 0 then constSection x (s.consume x.countBits)
      else if x.size < s.peek x.countBits then
        raise (.malformedTable .count (s.peek x.countBits)) (s.consume x.countBits)
      else (lengthLoop x (s.peek x.countBits) ((s.consume x.countBits).withLens x [])).bind
        fun _ t => buildTable x t := by
  cases x <;> rfl

section
variable {x : Alphabet} {n c : Nat} {s : State}

/-- The single-symbol form: count 0 and a symbol. -/
theorem sectionPart_of_count_zero (hc : c < 2 ^ x.countBits)
    (h : s.reads (bitsOf x.countBits 0 ++ bitsOf x.countBits c)) :
    sectionPart x s = constTable x c (s.consume (2 * x.countBits)) := by
  obtain ⟨hzero, hsym⟩ := State.reads_append.mp h
  rw [length_bitsOf] at hsym
  rw [sectionPart_eq, State.peek_of_reads (Nat.two_pow_pos _) hzero, if_pos rfl, constSection, getBits,
    State.peek_of_reads hc hsym, State.consume_consume, ← Nat.two_mul]

theorem sectionPart_of_count_above (hn : n < 2 ^ x.countBits) (habove : x.size < n)
    (h : s.reads (bitsOf x.countBits n)) :
    sectionPart x s = raise (.malformedTable .count n) (s.consume x.countBits) := by
  rw [sectionPart_eq, State.peek_of_reads hn h, if_neg (by omega), if_pos habove]

/-- A count within the alphabet: the loop, and then HT.BUILD. -/
theorem sectionPart_of_count (hpos : 1 ≤ n) (hle : n ≤ x.size) (h : s.reads (bitsOf x.countBits n)) :
    sectionPart x s =
      (lengthLoop x n ((s.consume x.countBits).withLens x [])).bind fun _ t => buildTable x t := by
  have hn : n < 2 ^ x.countBits := hle.trans_lt (by cases x <;> decide)
  rw [sectionPart_eq, State.peek_of_reads hn h, if_neg (by omega), if_neg (not_lt.mpr hle)]

/-- R165 for a value outside the alphabet or within it. -/
theorem constTable_of_lt (hc : c < x.size) : constTable x c s = .ok ()
    (s.setUnit x { s.unit x with len := List.replicate x.size 0#5, constV := true, constSym := c }) := by
  rcases constTable_cases x c s with ⟨-, e⟩ | ⟨hle, -⟩
  · exact e
  · exact absurd hc (not_lt.mpr hle)

theorem constTable_of_le (hc : x.size ≤ c) : constTable x c s = raise (.malformedTable .constSymbol c) s := if_pos hc

end

/-- Settles O11: with count 0 the section is HT.CONST of its second field, both fields consumed. -/
theorem sectionWithCountZero : Obligations.SectionWithCountZero := by
  intro x c s hc h
  rw [exec_sectionInstr, sectionPart_of_count_zero hc h]
  refine ⟨fun hlt => ?_, fun hle => ?_⟩
  · rw [constTable_of_lt hlt, State.unit_consume]
    rfl
  · rw [constTable_of_le hle]
    rfl

/-- Settles O12: the test of the count comes before any length is cleared. -/
theorem sectionCountAboveAlphabet : Obligations.SectionCountAboveAlphabet := by
  intro x n s habove hn h
  rw [exec_sectionInstr, sectionPart_of_count_above hn habove h]
  rfl

/-! ## A header of zeros (R221) -/

theorem bitsOf_zero_right (n : Nat) : bitsOf n 0 = List.replicate n false := by
  induction n with
  | zero => rfl
  | succ n ih => rw [bitsOf, ih, Nat.zero_testBit, List.replicate_succ]

theorem State.reads_zeros_add {s : State} {m n : Nat} :
    s.reads (List.replicate (m + n) false) ↔
      s.reads (List.replicate m false) ∧ (s.consume m).reads (List.replicate n false) := by
  rw [List.replicate_add, State.reads_append, List.length_replicate]

/-- The unit after HT.CONST X, 0. -/
def TableUnit.constZero (x : Alphabet) (u : TableUnit) : TableUnit :=
  { u with len := List.replicate x.size 0#5, constV := true, constSym := 0 }

/-- A section of zeros is the single-symbol form of symbol 0; the zeros after it are still to be read. -/
theorem sectionPart_of_zeros (x : Alphabet) (m : Nat) {s : State}
    (h : s.reads (List.replicate (2 * x.countBits + m) false)) :
    ∃ t, sectionPart x s = .ok () t ∧ t = (s.consume (2 * x.countBits)).setUnit x ((s.unit x).constZero x) ∧
      t.reads (List.replicate m false) := by
  obtain ⟨hhead, hrest⟩ := State.reads_zeros_add.mp h
  have hfields : s.reads (bitsOf x.countBits 0 ++ bitsOf x.countBits 0) := by
    rwa [bitsOf_zero_right, ← List.replicate_add, ← Nat.two_mul]
  have hsize : 0 < x.size := Nat.zero_lt_of_lt x.two_le_size
  refine ⟨_, ?_, rfl, (State.reads_setUnit _ _ _ _).mpr hrest⟩
  rw [sectionPart_of_count_zero (Nat.two_pow_pos _) hfields, constTable_of_lt hsize, State.unit_consume]
  rfl

/-- LH5.HDR where none of its parts raises. -/
theorem blockHeader_of_sections {s s1 s2 s3 : State} (hT : sectionPart .t (blockCountPart s) = .ok () s1)
    (hC : sectionPart .c s1 = .ok () s2) (hP : sectionPart .p s2 = .ok () s3) :
    blockHeader s = .ok () { s3 with phase := .streaming } := by
  simp only [sectionPart] at hT hC hP
  rw [blockHeader, hT, Res.bind_ok, hC, Res.bind_ok, hP, Res.bind_ok]

/-- Settles O21: BLKCNT reads 0, and each of the three sections is the single-symbol form with symbol 0. -/
theorem zeroHeaderCompletes : Obligations.ZeroHeaderCompletes := by
  intro s h
  obtain ⟨hcount, h⟩ := (State.reads_zeros_add (m := 16) (n := 36)).mp h
  have hpeek : s.peek 16 = 0 := State.peek_of_reads (by decide) ((bitsOf_zero_right 16).symm ▸ hcount)
  have hblkcnt : blockCountPart s = { s.consume 16 with blockCount := 0#16 } := by
    rw [blockCountPart, getBits, hpeek]
  obtain ⟨s1, eT, rfl, h⟩ := sectionPart_of_zeros .t 26 (s := blockCountPart s) h
  obtain ⟨s2, eC, rfl, h⟩ := sectionPart_of_zeros .c 8 h
  obtain ⟨s3, eP, rfl, -⟩ := sectionPart_of_zeros .p 0 h
  have hpos : s.bitpos + 16 + 10 + 18 + 8 = s.bitpos + 52 := rfl
  rw [exec_lh5Hdr_of_ok (blockHeader_of_sections eT eC eP), hblkcnt, ← hpos]
  simp only [State.consume, State.setUnit, State.unit, TableUnit.constZero, Alphabet.size_t, Alphabet.size_c,
    Alphabet.size_p, Alphabet.countBits_t, Alphabet.countBits_c, Alphabet.countBits_p, Nat.reduceMul]

/-! ## The loops of LH5.TLEN and LH5.PLEN (R196, R214) -/

/-- One length code read into LEN_X at the first index not yet listed. -/
theorem lengthCode_withLens {s : State} {l : Nat} (x : Alphabet) (ls : List Nat) (hl : l ≤ 16)
    (h : s.reads (lengthCodeBits l)) :
    lengthCode (s.withLens x ls) = .ok l ((s.consume (lengthCodeBits l).length).withLens x ls) := by
  rw [lengthCode_of_reads hl ((State.reads_withLens s x ls).mpr h), State.withLens_consume]

theorem lengthCode_withLens_of_long {s : State} {j : Nat} (x : Alphabet) (ls : List Nat) (hj : j ≤ 3)
    (h : s.readsLongCode [] j) :
    lengthCode (s.withLens x ls) = raise (.malformedTable .lenGt16 (17 + j)) (s.withLens x ls) :=
  lengthCode_of_readsLongCode hj ((State.readsLongCode_withLens s x ls).mpr h)

/-- The P loop over the codes of given lengths. -/
theorem pLengths_append (new : List Nat) (k : Nat) {i : Nat} {ls : List Nat} {s : State} (hi : ls.length = i)
    (hlen : i + new.length ≤ 14) (hle : ∀ l ∈ new, l ≤ 16) (h : s.reads (new.flatMap lengthCodeBits)) :
    pLengths (new.length + k) i (s.withLens .p ls) =
      pLengths k (i + new.length) ((s.consume (new.flatMap lengthCodeBits).length).withLens .p (ls ++ new)) := by
  induction new generalizing i ls s with
  | nil => simp
  | cons l new ih =>
    subst hi
    rw [List.forall_mem_cons] at hle
    rw [List.length_cons] at hlen
    obtain ⟨hl, hle⟩ := hle
    obtain ⟨hfirst, hrest⟩ := State.reads_append.mp h
    have hindex : ls.length + (new.length + 1) = ls.length + 1 + new.length := by omega
    have hnext := ih (i := ls.length + 1) (ls := ls ++ [l]) (List.length_append ..) (by omega) hle hrest
    rw [List.append_assoc, List.singleton_append, State.consume_consume, ← List.length_append] at hnext
    rw [List.length_cons, Nat.add_right_comm, pLengths, lengthCode_withLens .p ls hl hfirst, Res.bind_ok,
      State.setLen_withLens _ _ _ (by simp; omega), hindex]
    exact hnext

/-- The T loop over the codes of given lengths, where the escape index is not among those passed. -/
theorem tLengths_append (new : List Nat) (k : Nat) {n i : Nat} {ls : List Nat} {s : State} (hi : ls.length = i)
    (hescape : i + new.length ≤ 2 ∨ 3 ≤ i) (hn : ∀ j < new.length, i + j < n) (hsize : n ≤ 19)
    (hle : ∀ l ∈ new, l ≤ 16) (h : s.reads (new.flatMap lengthCodeBits)) :
    tLengths n (new.length + k) i (s.withLens .t ls) =
      tLengths n k (i + new.length) ((s.consume (new.flatMap lengthCodeBits).length).withLens .t (ls ++ new)) := by
  induction new generalizing i ls s with
  | nil => simp
  | cons l new ih =>
    subst hi
    rw [List.forall_mem_cons] at hle
    rw [List.length_cons] at hescape hn
    obtain ⟨hl, hle⟩ := hle
    obtain ⟨hfirst, hrest⟩ := State.reads_append.mp h
    have hindex : ls.length + (new.length + 1) = ls.length + 1 + new.length := by omega
    have hlt : ls.length < n := hn 0 (Nat.succ_pos _)
    have hn' (j : Nat) (hj : j < new.length) : ls.length + 1 + j < n := by
      have := hn (j + 1) (Nat.succ_lt_succ hj)
      omega
    have hnext := ih (i := ls.length + 1) (ls := ls ++ [l]) (List.length_append ..) (by omega) hn' hle hrest
    rw [List.append_assoc, List.singleton_append, State.consume_consume, ← List.length_append] at hnext
    rw [List.length_cons, Nat.add_right_comm, tLengths, if_pos hlt, lengthCode_withLens .t ls hl hfirst,
      Res.bind_ok, State.setLen_withLens _ _ _ (by simp; omega), if_neg (by simp; omega), hindex]
    exact hnext

/-- The third code of the T loop, and the two-bit run after it (R199). -/
theorem tLengths_escape {k n l z : Nat} {ls : List Nat} {s : State} (hlen : ls.length = 2) (hn : 3 ≤ n) (hl : l ≤ 16)
    (hz : z ≤ 3) (h : s.reads (lengthCodeBits l ++ bitsOf 2 z)) :
    tLengths n (k + 1) 2 (s.withLens .t ls) =
      tLengths n k (3 + z)
        ((s.consume ((lengthCodeBits l).length + 2)).withLens .t (ls ++ [l] ++ List.replicate z 0)) := by
  obtain ⟨hcode, hrun⟩ := State.reads_append.mp h
  have hskip : skipRun ((s.consume (lengthCodeBits l).length).withLens .t (ls ++ [l])) =
      (z, (s.consume ((lengthCodeBits l).length + 2)).withLens .t (ls ++ [l])) := by
    rw [skipRun, getBits, State.peek_of_reads (show z < 2 ^ 2 by omega) ((State.reads_withLens _ _ _).mpr hrun),
      State.withLens_consume, State.consume_consume]
  have hset := State.setLen_withLens (s.consume (lengthCodeBits l).length) .t ls (l := l) (by simp; omega)
  rw [hlen] at hset
  rw [tLengths, if_pos (by omega), lengthCode_withLens .t ls hl hcode, Res.bind_ok, hset]
  dsimp only
  rw [if_pos rfl, hskip, State.withLens_append_zeros _ _ _ (by simp; omega)]

/-- The T loop over three codes, the run z, and the codes of the lengths from index 3 + z on. -/
theorem tLengths_run {p q r z n : Nat} {b : List Nat} (k : Nat) {s : State} (hz : z ≤ 3) (hn : 3 ≤ n) (hsize : n ≤ 19)
    (hb : ∀ i < b.length, 3 + z + i < n) (hle : ∀ l ∈ [p, q, r] ++ b, l ≤ 16)
    (h : s.reads ([p, q, r].flatMap lengthCodeBits ++ bitsOf 2 z ++ b.flatMap lengthCodeBits)) :
    tLengths n (3 + b.length + k) 0 (s.withLens .t []) =
      tLengths n k (3 + z + b.length)
        ((s.consume (2 + (([p, q, r] ++ b).flatMap lengthCodeBits).length)).withLens .t
          ([p, q, r] ++ List.replicate z 0 ++ b)) := by
  obtain ⟨hle₁, hle₂⟩ := List.forall_mem_append.mp hle
  have hsplit : [p, q, r].flatMap lengthCodeBits ++ bitsOf 2 z =
      [p, q].flatMap lengthCodeBits ++ (lengthCodeBits r ++ bitsOf 2 z) := by
    simp only [List.flatMap_cons, List.flatMap_nil, List.append_nil, List.append_assoc]
  rw [hsplit, List.append_assoc] at h
  obtain ⟨hfirst, h⟩ := State.reads_append.mp h
  obtain ⟨hthird, hrest⟩ := State.reads_append.mp h
  have hlen : ([p, q, r] ++ List.replicate z 0).length = 3 + z := by simp; omega
  have hfuel : 3 + b.length + k = [p, q].length + (b.length + k + 1) := by simp; omega
  have hbits : 2 + (([p, q, r] ++ b).flatMap lengthCodeBits).length = ([p, q].flatMap lengthCodeBits).length +
      ((lengthCodeBits r).length + 2 + (b.flatMap lengthCodeBits).length) := by simp; omega
  rw [hfuel, hbits, ← State.consume_consume, ← State.consume_consume,
    tLengths_append [p, q] _ (ls := []) (i := 0) rfl (.inl le_rfl) (fun i hi => by simp at hi ⊢; omega) hsize
      (fun l hl => hle₁ l (by simp at hl ⊢; omega)) hfirst]
  refine (tLengths_escape (ls := [p, q]) rfl hn (hle₁ r (by simp)) hz hthird).trans ?_
  exact tLengths_append b k hlen (.inr (by omega)) hb hsize hle₂ (by simpa using hrest)

/-- The T loop at a length code above 16 raises, whatever it has read before. -/
theorem tLengths_of_long {n k i j : Nat} {s : State} (ls : List Nat) (hi : i < n) (hj : j ≤ 3)
    (h : s.readsLongCode [] j) : tLengths n (k + 1) i (s.withLens .t ls) =
      raise (.malformedTable .lenGt16 (17 + j)) (s.withLens .t ls) := by
  rw [tLengths, if_pos hi, lengthCode_withLens_of_long .t ls hj h, raise_bind]

/-- So does the P loop. -/
theorem pLengths_of_long {k i j : Nat} {s : State} (ls : List Nat) (hj : j ≤ 3) (h : s.readsLongCode [] j) :
    pLengths (k + 1) i (s.withLens .p ls) = raise (.malformedTable .lenGt16 (17 + j)) (s.withLens .p ls) := by
  rw [pLengths, lengthCode_withLens_of_long .p ls hj h, raise_bind]

theorem tLengths_of_le {n fuel i : Nat} {s : State} (hi : n ≤ i) : tLengths n fuel i s = .ok () s := by
  cases fuel with
  | zero => rfl
  | succ fuel => rw [tLengths, if_neg (not_lt.mpr hi)]

/-! ## LH5.TLEN and LH5.PLEN -/

section
variable {x : Alphabet} {n : Nat} {s t : State}

/-- A section whose loop runs to its end in t is HT.BUILD of t. -/
theorem exec_section_of_ok (hpos : 1 ≤ n) (hle : n ≤ x.size) (h : s.reads (bitsOf x.countBits n))
    (hloop : lengthLoop x n ((s.consume x.countBits).withLens x []) = .ok () t) :
    exec x.sectionInstr s = exec (.htBuild x) t := by
  rw [exec_sectionInstr, sectionPart_of_count hpos hle h, hloop, Res.bind_ok, exec_htBuild]

/-- A section whose loop raises ends there. -/
theorem exec_section_of_ended (hpos : 1 ≤ n) (hle : n ≤ x.size) (h : s.reads (bitsOf x.countBits n))
    (hloop : lengthLoop x n ((s.consume x.countBits).withLens x []) = .ended t) :
    exec x.sectionInstr s = .next t := by
  rw [exec_sectionInstr, sectionPart_of_count hpos hle h, hloop, Res.bind_ended, Res.toOutcome]

/-- A raise inside a section leaves what R350 promises. -/
theorem State.malformed_faulted (s : State) (k : Nat) (x : Alphabet) (ls : List Nat) (c : TableCause) (info : Nat) :
    s.malformed (((s.consume k).withLens x ls).faulted (.malformedTable c info)) c.sub info := by
  cases x <;> exact ⟨rfl, rfl, rfl, rfl, rfl, rfl, rfl, rfl, rfl⟩

end

/-- Settles O19: the loop takes one code for each index from 0 on. -/
theorem plenReadsLengthCodes : Obligations.PlenReadsLengthCodes := by
  intro s ls hpos hlen hle h
  obtain ⟨hcount, hcodes⟩ := State.reads_append.mp h
  rw [length_bitsOf] at hcodes
  have hloop := pLengths_append ls 0 (ls := []) rfl (by simpa using hlen) hle hcodes
  exact exec_section_of_ok (x := .p) hpos hlen hcount hloop

/-- Settles O13: with one or two codes the loop stops before the escape index; with three it reads the run there, and
goes on from index 3 + z, which is past the escape index. -/
theorem tlenReadsLengthCodes : Obligations.TlenReadsLengthCodes := by
  intro s
  refine ⟨fun ls hpos hlen hle h => ?_, fun a b z n ha hz hn3 hn19 hb hle h => ?_⟩
  · obtain ⟨hcount, hcodes⟩ := State.reads_append.mp h
    rw [length_bitsOf] at hcodes
    have hloop := tLengths_append ls 0 (ls := []) (n := ls.length) rfl (.inl (by simpa using hlen)) (by simp) (by omega)
      hle hcodes
    exact exec_section_of_ok (x := .t) hpos (hlen.trans (by decide)) hcount hloop
  · obtain ⟨p, q, r, rfl⟩ := List.length_eq_three.mp ha
    rw [List.append_assoc, List.append_assoc, ← List.append_assoc ([p, q, r].flatMap _)] at h
    obtain ⟨hcount, hcodes⟩ := State.reads_append.mp h
    rw [length_bitsOf] at hcodes
    have hloop := (tLengths_run (n := n) (n - (3 + b.length)) hz hn3 hn19 (by omega) hle hcodes).trans
      (tLengths_of_le (by omega))
    rw [Nat.add_sub_cancel' (by omega)] at hloop
    refine (exec_section_of_ok (x := .t) (by omega) hn19 hcount hloop).trans ?_
    have hlen : ([p, q, r] ++ List.replicate z 0 ++ b).length = 3 + z + b.length := by simp; omega
    have hpos (L : Nat) : s.bitpos + 5 + (2 + L) = s.bitpos + 7 + L := by omega
    rw [State.withLens, hlen, State.consume, State.consume, hpos]
    rfl

/-- Bits that are followed by a long code, and the code after them. -/
theorem State.readsLongCode_iff {s : State} {bits : List Bool} {j : Nat} :
    s.readsLongCode bits j ↔ s.reads bits ∧ (s.consume bits.length).readsLongCode [] j := by
  rw [← State.readsLongCode_append, List.append_nil]

/-- Settles O14: the loop takes the legal codes one by one, and then stands at the long one, which raises. -/
theorem sectionsRejectLongLengthCode : Obligations.SectionsRejectLongLengthCode := by
  intro s j hj
  refine ⟨fun n ls hlen hlt hn hle h => ?_, fun n z a b ha hz hlt hn hle h => ?_, fun n ls hlt hn hle h => ?_⟩
  · obtain ⟨hcount, h⟩ := State.readsLongCode_append.mp h
    rw [length_bitsOf] at h
    obtain ⟨hcodes, hlong⟩ := State.readsLongCode_iff.mp h
    obtain ⟨k, rfl⟩ := Nat.exists_eq_add_of_lt hlt
    have hloop := (tLengths_append ls (k + 1) (ls := []) (i := 0) (n := ls.length + k + 1) rfl
      (.inl (by simpa using hlen)) (by omega) hn hle hcodes).trans (tLengths_of_long _ (by omega) hj hlong)
    refine ⟨_, exec_section_of_ended (x := .t) (by omega) hn hcount hloop, ?_⟩
    rw [State.consume_consume]
    exact s.malformed_faulted _ _ _ _ _
  · obtain ⟨p, q, r, rfl⟩ := List.length_eq_three.mp ha
    rw [List.append_assoc, List.append_assoc, ← List.append_assoc ([p, q, r].flatMap _)] at h
    obtain ⟨hcount, h⟩ := State.readsLongCode_append.mp h
    rw [length_bitsOf] at h
    obtain ⟨hcodes, hlong⟩ := State.readsLongCode_iff.mp h
    obtain ⟨k, rfl⟩ := Nat.exists_eq_add_of_lt hlt
    have hbits : ([p, q, r].flatMap lengthCodeBits ++ bitsOf 2 z ++ b.flatMap lengthCodeBits).length =
        2 + (([p, q, r] ++ b).flatMap lengthCodeBits).length := by
      simp only [List.length_append, List.flatMap_append, length_bitsOf]
      omega
    have hfuel : 3 + b.length + (z + k + 1) = 3 + z + b.length + k + 1 := by omega
    rw [hbits] at hlong
    have hloop := (tLengths_run (n := 3 + z + b.length + k + 1) (z + k + 1) hz (by omega) hn (by omega) hle
      hcodes).trans (tLengths_of_long _ (by omega) hj hlong)
    rw [hfuel] at hloop
    refine ⟨_, exec_section_of_ended (x := .t) (by omega) hn hcount hloop, ?_⟩
    rw [State.consume_consume]
    exact s.malformed_faulted _ _ _ _ _
  · obtain ⟨hcount, h⟩ := State.readsLongCode_append.mp h
    rw [length_bitsOf] at h
    obtain ⟨hcodes, hlong⟩ := State.readsLongCode_iff.mp h
    obtain ⟨k, rfl⟩ := Nat.exists_eq_add_of_lt hlt
    have hloop := (pLengths_append ls (k + 1) (ls := []) (i := 0) rfl (by omega) hle hcodes).trans
      (pLengths_of_long _ hj hlong)
    refine ⟨_, exec_section_of_ended (x := .p) (by omega) hn hcount hloop, ?_⟩
    rw [State.consume_consume]
    exact s.malformed_faulted _ _ _ _ _

end Sys2Proof.Machine
end

section
/-! Proofs about the C section (42_lh5_block_header.md R205 to R212): the items on their own, and the loop of LH5.CLEN
where the stream holds the codes and fields of given items, with a built or a single-symbol T table. -/

namespace Sys2Proof

/-! ## The items (30_encoding.md R97) -/

/-- The T symbol that selects an item. -/
def ClenItem.symbol : ClenItem → Nat
  | .zero1 => 0
  | .zrun4 _ => 1
  | .zrun9 _ => 2
  | .len l => l + 2

/-- The field of an item, after the code of its T symbol. -/
def ClenItem.fieldBits : ClenItem → List Bool
  | .zero1 => []
  | .zrun4 count => bitsOf 4 (count - 3)
  | .zrun9 count => bitsOf 9 (count - 20)
  | .len _ => []

/-- The item exists: its run or length has a field or a T symbol. -/
def ClenItem.legal : ClenItem → Prop
  | .zero1 => True
  | .zrun4 count => 3 ≤ count ∧ count ≤ 18
  | .zrun9 count => 20 ≤ count ∧ count ≤ 531
  | .len l => 1 ≤ l ∧ l ≤ 16

theorem asmItem_eq (table : Option (List Nat)) (item : ClenItem) :
    asmItem table item = asmCode table item.symbol ++ item.fieldBits := by
  cases item <;> simp [asmItem, ClenItem.symbol, ClenItem.fieldBits]

theorem ClenItem.legal_of_codable {lensT : List Nat} {item : ClenItem} (h : item.codable lensT) : item.legal := by
  cases item with
  | zero1 => exact trivial
  | zrun4 count | zrun9 count =>
    obtain ⟨-, hrun⟩ := h
    exact hrun
  | len l =>
    obtain ⟨hlow, hhigh, -⟩ := h
    exact ⟨hlow, hhigh⟩

theorem ClenItem.code_of_codable {lensT : List Nat} {item : ClenItem} (h : item.codable lensT) :
    0 < lensT.getD item.symbol 0 := by
  cases item with
  | zero1 => exact h
  | zrun4 count | zrun9 count =>
    obtain ⟨hcode, -⟩ := h
    exact hcode
  | len l =>
    obtain ⟨-, -, hcode⟩ := h
    exact hcode

theorem ClenItem.symbol_lt {item : ClenItem} (h : item.legal) : item.symbol < 19 := by
  cases item with
  | zero1 => decide
  | zrun4 count => exact (by decide : 1 < 19)
  | zrun9 count => exact (by decide : 2 < 19)
  | len l =>
    obtain ⟨-, hl⟩ := h
    simp only [ClenItem.symbol]
    omega

theorem itemLens_length_pos {item : ClenItem} (h : item.legal) : 0 < (itemLens item).length := by
  cases item with
  | zero1 => decide
  | zrun4 count | zrun9 count =>
    obtain ⟨hlow, -⟩ := h
    simp only [itemLens, List.length_replicate]
    omega
  | len l => exact Nat.one_pos

end Sys2Proof

namespace Sys2Proof.Machine

/-! ## Items on their own (R207 to R211) -/

/-- A zero-run item on its own: its field of n bits is consumed, and then the run is counted. -/
theorem toItemOutcome_zeroRun (i run : Nat) (s : State) :
    (zeroRun i run s).toItemOutcome =
      if i + run ≤ 510 then .next { s with lenIndex := i + run }
      else .next (s.faulted (.malformedTable .zeroRun (i + run))) := by
  rcases zeroRun_cases i run s with ⟨h, e⟩ | ⟨h, e⟩
  · rw [e, if_pos h]
    rfl
  · rw [e, if_neg (by omega)]
    rfl

/-- Settles O15: the three runs are one operation after their field is consumed; CL.LEN is the store at its index. -/
theorem itemsAdvanceIndexOrFault : Obligations.ItemsAdvanceIndexOrFault := by
  refine ⟨fun s run n i hi => ?_, fun s t hlow hhigh hindex => ?_⟩
  · have hexec : exec i s = (zeroRun s.lenIndex run (s.consume n)).toItemOutcome := by
      rcases hi with ⟨rfl, rfl, rfl⟩ | ⟨rfl, rfl, rfl⟩ | ⟨rfl, rfl, rfl⟩
      · rfl
      · rw [← State.peek_eq_fieldValue]
        rfl
      · rw [← State.peek_eq_fieldValue]
        rfl
    rw [hexec, toItemOutcome_zeroRun]
    refine ⟨fun hle => ?_, fun hlt => ?_⟩
    · rw [if_pos hle]
      rfl
    · rw [if_neg (by omega)]
      rfl
  · have hguard : ¬ (t < 3 ∨ 18 < t) := by omega
    have hexec : exec (.clLen t) s = (storeLength t s.lenIndex s).toItemOutcome := by
      have harm : exec (.clLen t) s = execClLen t s := rfl
      rw [harm, execClLen, if_neg hguard, if_neg (not_le.mpr hindex)]
    rw [hexec]
    rfl

/-! ## One item inside the loop (R205) -/

section
variable {s : State} {item : ClenItem} (ls : List Nat)

theorem zeroRun_withLens_ok {k : Nat} (h : ls.length + k ≤ 510) :
    zeroRun ls.length k (s.withLens .c ls) =
      .ok (ls ++ List.replicate k 0).length (s.withLens .c (ls ++ List.replicate k 0)) := by
  rw [State.withLens_append_zeros s .c ls h, zeroRun, if_neg (not_lt.mpr h), List.length_append, List.length_replicate]

theorem zeroRun_withLens_raise {k : Nat} (h : 510 < ls.length + k) :
    zeroRun ls.length k (s.withLens .c ls) =
      raise (.malformedTable .zeroRun (ls ++ List.replicate k 0).length) (s.withLens .c ls) := by
  rw [zeroRun, if_pos h, List.length_append, List.length_replicate]

theorem zeroRunShort_of_reads {k : Nat} (hk : 3 ≤ k ∧ k ≤ 18) (h : s.reads (bitsOf 4 (k - 3))) (i : Nat) :
    zeroRunShort i (s.withLens .c ls) = zeroRun i k ((s.consume 4).withLens .c ls) := by
  have hpeek := State.peek_of_reads (s := s.withLens .c ls) (show k - 3 < 2 ^ 4 by omega)
    ((State.reads_withLens s .c ls).mpr h)
  rw [zeroRunShort, getBits, hpeek, State.withLens_consume]
  dsimp only
  rw [Nat.sub_add_cancel hk.1]

theorem zeroRunLong_of_reads {k : Nat} (hk : 20 ≤ k ∧ k ≤ 531) (h : s.reads (bitsOf 9 (k - 20))) (i : Nat) :
    zeroRunLong i (s.withLens .c ls) = zeroRun i k ((s.consume 9).withLens .c ls) := by
  have hpeek := State.peek_of_reads (s := s.withLens .c ls) (show k - 20 < 2 ^ 9 by omega)
    ((State.reads_withLens s .c ls).mpr h)
  rw [zeroRunLong, getBits, hpeek, State.withLens_consume]
  dsimp only
  rw [Nat.sub_add_cancel hk.1]

/-- Within the alphabet the item appends its lengths. -/
theorem cItem_ok (hitem : item.legal) (h : s.reads item.fieldBits) (hle : (ls ++ itemLens item).length ≤ 510) :
    cItem item.symbol ls.length (s.withLens .c ls) =
      .ok (ls ++ itemLens item).length ((s.consume item.fieldBits.length).withLens .c (ls ++ itemLens item)) := by
  rw [List.length_append] at hle
  cases item with
  | zero1 => exact zeroRun_withLens_ok ls hle
  | zrun4 k =>
    rw [itemLens, List.length_replicate] at hle
    exact (zeroRunShort_of_reads ls hitem h _).trans (zeroRun_withLens_ok ls hle)
  | zrun9 k =>
    rw [itemLens, List.length_replicate] at hle
    exact (zeroRunLong_of_reads ls hitem h _).trans (zeroRun_withLens_ok ls hle)
  | len l =>
    have hset := State.setLen_withLens s .c ls (l := l) hle
    obtain ⟨hpos, -⟩ := hitem
    rw [cItem, ClenItem.symbol, if_neg (by omega), if_neg (by omega), if_neg (by omega), storeLength,
      Nat.add_sub_cancel, hset, itemLens, List.length_append, List.length_singleton]
    rfl

/-- Past the alphabet it raises; only a run goes past it from an index below 510. -/
theorem cItem_raise (hitem : item.legal) (h : s.reads item.fieldBits) (hlt : ls.length < 510)
    (hpast : 510 < (ls ++ itemLens item).length) :
    cItem item.symbol ls.length (s.withLens .c ls) =
      raise (.malformedTable .zeroRun (ls ++ itemLens item).length)
        ((s.consume item.fieldBits.length).withLens .c ls) := by
  rw [List.length_append] at hpast
  cases item with
  | zero1 => exact zeroRun_withLens_raise ls hpast
  | zrun4 k =>
    rw [itemLens, List.length_replicate] at hpast
    exact (zeroRunShort_of_reads ls hitem h _).trans (zeroRun_withLens_raise ls hpast)
  | zrun9 k =>
    rw [itemLens, List.length_replicate] at hpast
    exact (zeroRunLong_of_reads ls hitem h _).trans (zeroRun_withLens_raise ls hpast)
  | len l =>
    rw [itemLens, List.length_singleton] at hpast
    omega

end

/-! ## The loop of LH5.CLEN (R205) -/

/-- Table T, written `table` in the assembler's terms, gives an item's T symbol wherever its code stands at the cursor.
-/
def State.selects (s : State) (table : Option (List Nat)) (item : ClenItem) : Prop :=
  ∀ r : State, r.tabT = s.tabT → r.reads (asmCode table item.symbol) →
    decodeSymbol .t r = .ok item.symbol (r.consume (asmCode table item.symbol).length)

section
variable {s : State} {table : Option (List Nat)} {n : Nat}

/-- One turn of the loop at an item. -/
theorem cLengths_item {item : ClenItem} (k : Nat) {ls : List Nat} (hsel : s.selects table item) (hlt : ls.length < n)
    (h : s.reads (asmItem table item)) :
    cLengths n (k + 1) ls.length (s.withLens .c ls) =
      (cItem item.symbol ls.length ((s.consume (asmCode table item.symbol).length).withLens .c ls)).bind
        fun i s => cLengths n k i s := by
  rw [asmItem_eq] at h
  obtain ⟨hcode, -⟩ := State.reads_append.mp h
  rw [cLengths, if_pos hlt, hsel _ (State.tabT_withLens_c s ls) ((State.reads_withLens s .c ls).mpr hcode), Res.bind_ok,
    State.withLens_consume]

/-- The turn of the loop at an item that passes 510. -/
theorem cLengths_item_raise {item : ClenItem} (k : Nat) {ls : List Nat} (hsel : s.selects table item)
    (hlegal : item.legal) (hlt : ls.length < n) (hlt' : ls.length < 510) (hpast : 510 < (ls ++ itemLens item).length)
    (h : s.reads (asmItem table item)) :
    ∃ m, cLengths n (k + 1) ls.length (s.withLens .c ls) =
      raise (.malformedTable .zeroRun (ls ++ itemLens item).length) ((s.consume m).withLens .c ls) := by
  have hfield := (State.reads_append.mp (asmItem_eq table item ▸ h)).2
  have hitem := cLengths_item k hsel hlt h
  rw [cItem_raise ls hlegal hfield hlt' hpast, raise_bind, State.consume_consume] at hitem
  exact ⟨_, hitem⟩

/-- The loop over given items: their lengths are listed one after the other. -/
theorem cLengths_append (items : List ClenItem) (k : Nat) {ls : List Nat} (hsel : ∀ item ∈ items, s.selects table item)
    (hlegal : ∀ item ∈ items, item.legal)
    (hstart : ∀ j < items.length, (ls ++ (items.take j).flatMap itemLens).length < n)
    (hle : (ls ++ items.flatMap itemLens).length ≤ 510) (h : s.reads (items.flatMap (asmItem table))) :
    cLengths n (items.length + k) ls.length (s.withLens .c ls) =
      cLengths n k (ls ++ items.flatMap itemLens).length
        ((s.consume (items.flatMap (asmItem table)).length).withLens .c (ls ++ items.flatMap itemLens)) := by
  induction items generalizing s ls with
  | nil => simp
  | cons item items ih =>
    rw [List.forall_mem_cons] at hsel hlegal
    obtain ⟨hsel₀, hsel⟩ := hsel
    obtain ⟨hlegal₀, hlegal⟩ := hlegal
    obtain ⟨hitem, hrest⟩ := State.reads_append.mp h
    have hlt : ls.length < n := by simpa using hstart 0 (Nat.succ_pos _)
    have hfield := (State.reads_append.mp (asmItem_eq table item ▸ hitem)).2
    rw [List.flatMap_cons, ← List.append_assoc] at hle
    have hle₀ : (ls ++ itemLens item).length ≤ 510 := le_trans (by simp) hle
    have hstart' (j : Nat) (hj : j < items.length) :
        (ls ++ itemLens item ++ (items.take j).flatMap itemLens).length < n := by
      simpa using hstart (j + 1) (Nat.succ_lt_succ hj)
    have hnext := ih (s := s.consume (asmItem table item).length) (ls := ls ++ itemLens item) hsel hlegal hstart' hle
      hrest
    rw [State.consume_consume, ← List.length_append] at hnext
    rw [List.length_cons, Nat.add_right_comm, cLengths_item (items.length + k) hsel₀ hlt hitem,
      cItem_ok ls hlegal₀ hfield hle₀, Res.bind_ok, State.consume_consume, ← List.length_append, ← asmItem_eq, hnext,
      List.flatMap_cons, List.flatMap_cons, List.append_assoc]

theorem cLengths_of_le {fuel i : Nat} (hi : n ≤ i) : cLengths n fuel i s = .ok () s := by
  cases fuel with
  | zero => rfl
  | succ fuel => rw [cLengths, if_neg (not_lt.mpr hi)]

/-- An item is at least one length. -/
theorem length_le_length_flatMap_itemLens {items : List ClenItem} (hlegal : ∀ item ∈ items, item.legal) :
    items.length ≤ (items.flatMap itemLens).length := by
  induction items with
  | nil => exact le_rfl
  | cons item items ih =>
    rw [List.forall_mem_cons] at hlegal
    obtain ⟨hlegal₀, hlegal⟩ := hlegal
    have hpos := itemLens_length_pos hlegal₀
    have hrest := ih hlegal
    rw [List.flatMap_cons, List.length_append, List.length_cons]
    omega

/-- Items that each start below n are at most n: n turns of the loop are enough. -/
theorem length_le_of_starts {items : List ClenItem} (hlegal : ∀ item ∈ items, item.legal)
    (hstart : ∀ j < items.length, ((items.take j).flatMap itemLens).length < n) : items.length ≤ n := by
  by_contra hlt
  have hlast := hstart n (not_le.mp hlt)
  have hle := length_le_length_flatMap_itemLens fun item h => hlegal item (List.mem_of_mem_take (i := n) h)
  rw [List.length_take] at hle
  omega

/-- LH5.CLEN over given items that end within the alphabet. -/
theorem exec_lh5Clen_of_items {items : List ClenItem} (hpos : 1 ≤ n) (hn : n ≤ 510)
    (hsel : ∀ item ∈ items, s.selects table item) (hlegal : ∀ item ∈ items, item.legal)
    (hstart : ∀ j < items.length, ((items.take j).flatMap itemLens).length < n)
    (hend : n ≤ (items.flatMap itemLens).length) (hle : (items.flatMap itemLens).length ≤ 510)
    (h : s.reads (bitsOf 9 n ++ items.flatMap (asmItem table))) :
    exec .lh5Clen s = exec (.htBuild .c)
      ((s.consume (9 + (items.flatMap (asmItem table)).length)).withLens .c (items.flatMap itemLens)) := by
  obtain ⟨hcount, hitems⟩ := State.reads_append.mp h
  rw [length_bitsOf] at hitems
  have hloop := (cLengths_append (s := s.consume 9) (ls := []) items (n - items.length) hsel hlegal hstart hle
    hitems).trans (cLengths_of_le hend)
  rw [Nat.add_sub_cancel' (length_le_of_starts hlegal hstart), State.consume_consume] at hloop
  exact exec_section_of_ok (x := .c) hpos hn hcount hloop

/-- LH5.CLEN over given items of which the last passes 510. -/
theorem exec_lh5Clen_of_items_past {items : List ClenItem} {last : ClenItem} (hpos : 1 ≤ n) (hn : n ≤ 510)
    (hsel : ∀ item ∈ items ++ [last], s.selects table item) (hlegal : ∀ item ∈ items ++ [last], item.legal)
    (hstart : ∀ j ≤ items.length, ((items.take j).flatMap itemLens).length < n)
    (hpast : 510 < ((items ++ [last]).flatMap itemLens).length)
    (h : s.reads (bitsOf 9 n ++ (items ++ [last]).flatMap (asmItem table))) :
    ∃ t, exec .lh5Clen s = .next t ∧ s.malformed t 6#4 ((items ++ [last]).flatMap itemLens).length := by
  obtain ⟨hsel, hsel₁⟩ := List.forall_mem_append.mp hsel
  obtain ⟨hlegal, hlegal₁⟩ := List.forall_mem_append.mp hlegal
  have hall : (items.flatMap itemLens).length < n := by simpa using hstart items.length le_rfl
  obtain ⟨k, hk⟩ := Nat.exists_eq_add_of_lt ((length_le_length_flatMap_itemLens hlegal).trans_lt hall)
  rw [List.flatMap_append, List.flatMap_singleton] at h hpast ⊢
  obtain ⟨hcount, h⟩ := State.reads_append.mp h
  obtain ⟨hitems, hlast⟩ := State.reads_append.mp h
  rw [length_bitsOf] at hitems hlast
  obtain ⟨m, hraise⟩ := cLengths_item_raise (s := (s.consume 9).consume (items.flatMap (asmItem table)).length) k
    (hsel₁ last (List.mem_singleton_self _)) (hlegal₁ last (List.mem_singleton_self _)) hall (hall.trans_le hn) hpast
      hlast
  have hloop := (cLengths_append (s := s.consume 9) (ls := []) items (k + 1) hsel hlegal
    (fun j hj => hstart j hj.le) (hall.le.trans hn) hitems).trans hraise
  rw [← Nat.add_assoc, ← hk] at hloop
  refine ⟨_, exec_section_of_ended (x := .c) hpos hn hcount hloop, ?_⟩
  simp only [State.consume_consume]
  exact s.malformed_faulted _ _ _ _ _

end

/-! ## LH5.CLEN with a built T table -/

/-- A built T table gives the symbol whose canonical code stands at the cursor. -/
theorem State.decodesT.selects {s : State} {lensT : List Nat} (hT : s.decodesT lensT) {item : ClenItem}
    (h : item.codable lensT) : s.selects (some lensT) item := by
  obtain ⟨hbuilt, hlens, hdecode, hle⟩ := hT
  intro r hr hreads
  have hcoded := ClenItem.code_of_codable h
  have hlen : (codeBits lensT item.symbol).length = lensT.getD item.symbol 0 := by
    rw [codeBits, List.length_take, length_bitsOf, min_eq_left (hle _)]
  have hpre := (State.reads_iff_prefix_peek (n := 16) (hlen.trans_le (hle _))).mp hreads
  have htake : (bitsOf 16 (r.peek 16)).take (lensT.getD item.symbol 0) = codeBits lensT item.symbol := by
    rw [← hlen]
    exact (List.prefix_iff_eq_take.mp hpre).symm
  refine decodeSymbol_of_codeAt (.inr ⟨?_, ?_, ?_⟩)
  · rw [State.unit, hr, hbuilt]
  · rw [State.unit, hr, ← State.peek_eq_fieldValue]
    exact hdecode _ _ (ClenItem.symbol_lt (ClenItem.legal_of_codable h)) (r.peek_lt 16) hcoded htake
  · rw [State.unit, hr, TableUnit.lenOf_eq_getD_lens, hlens]
    exact hlen

/-- Settles O16: the loop takes the items one by one, each adding its lengths to those listed. -/
theorem clenReadsItems : Obligations.ClenReadsItems := by
  intro s lensT items n hpos hn hT hcodable hstart hend hle h
  rw [exec_lh5Clen_of_items hpos hn (fun item hi => hT.selects (hcodable item hi))
    (fun item hi => ClenItem.legal_of_codable (hcodable item hi)) hstart hend hle h, State.consume, ← Nat.add_assoc]
  rfl

/-! ## LH5.CLEN with a single-symbol T table (R212(b)) -/

/-- A single-symbol T table gives its symbol with no bits. -/
theorem selects_of_const {s : State} {item : ClenItem} (hV : s.tabT.constV = true)
    (hsym : s.tabT.constSym = item.symbol) : s.selects none item := by
  intro r hr _
  exact decodeSymbol_of_codeAt (w := 0) (.inl ⟨by rw [State.unit, hr, hV], by rw [State.unit, hr, hsym], rfl⟩)

/-- The zero run of T symbol c <= 2 with field f, as an item. -/
def runItem (c f : Nat) : ClenItem := if c = 0 then .zero1 else if c = 1 then .zrun4 (f + 3) else .zrun9 (f + 20)

theorem runItem_cases {c : Nat} (hc : c ≤ 2) (f : Nat) (hf : f < 2 ^ zeroRunBits c) :
    (runItem c f).symbol = c ∧ (runItem c f).legal ∧ itemLens (runItem c f) = List.replicate (zeroRunOf c f) 0 ∧
      asmItem none (runItem c f) = bitsOf (zeroRunBits c) f := by
  interval_cases c
  · exact ⟨rfl, trivial, rfl, rfl⟩
  · have hf' : f < 2 ^ 4 := hf
    exact ⟨rfl, ⟨by omega, by omega⟩, rfl, rfl⟩
  · have hf' : f < 2 ^ 9 := hf
    exact ⟨rfl, ⟨by omega, by omega⟩, rfl, rfl⟩

section
variable {c : Nat} {fs : List Nat}

theorem flatMap_itemLens_runItem (hc : c ≤ 2) (hfs : ∀ f ∈ fs, f < 2 ^ zeroRunBits c) :
    (fs.map (runItem c)).flatMap itemLens = List.replicate (fs.map (zeroRunOf c)).sum 0 := by
  induction fs with
  | nil => rfl
  | cons f fs ih =>
    rw [List.forall_mem_cons] at hfs
    obtain ⟨hf, hfs⟩ := hfs
    obtain ⟨-, -, hlens, -⟩ := runItem_cases hc f hf
    rw [List.map_cons, List.flatMap_cons, hlens, ih hfs, List.map_cons, List.sum_cons, List.replicate_add]

theorem flatMap_asmItem_runItem (hc : c ≤ 2) (hfs : ∀ f ∈ fs, f < 2 ^ zeroRunBits c) :
    (fs.map (runItem c)).flatMap (asmItem none) = fs.flatMap (bitsOf (zeroRunBits c)) := by
  rw [List.flatMap_map]
  refine List.flatMap_congr fun f hf => ?_
  obtain ⟨-, -, -, hbits⟩ := runItem_cases hc f (hfs f hf)
  exact hbits

/-- The items of the runs: selected without bits, legal, and each starting where the runs before it end. -/
theorem runItems_selects_legal {s : State} (hV : s.tabT.constV = true) (hsym : s.tabT.constSym = c) (hc : c ≤ 2)
    (hfs : ∀ f ∈ fs, f < 2 ^ zeroRunBits c) :
    ∀ item ∈ fs.map (runItem c), s.selects none item ∧ item.legal := by
  intro item hitem
  obtain ⟨f, hf, rfl⟩ := List.mem_map.mp hitem
  obtain ⟨hsymbol, hlegal, -, -⟩ := runItem_cases hc f (hfs f hf)
  exact ⟨selects_of_const hV (hsym.trans hsymbol.symm), hlegal⟩

theorem length_take_runItems (hc : c ≤ 2) (hfs : ∀ f ∈ fs, f < 2 ^ zeroRunBits c) (j : Nat) :
    (((fs.map (runItem c)).take j).flatMap itemLens).length = ((fs.take j).map (zeroRunOf c)).sum := by
  rw [← List.map_take, flatMap_itemLens_runItem hc fun f hf => hfs f (List.mem_of_mem_take hf), List.length_replicate]

end

theorem length_flatMap_bitsOf (fs : List Nat) (n : Nat) : (fs.flatMap (bitsOf n)).length = fs.length * n := by
  simp [List.length_flatMap]

/-- Settles O18: the loop takes n items of length c - 2, or the runs of symbol c, whose codes have no bits. -/
theorem clenWithSingleSymbolT : Obligations.ClenWithSingleSymbolT := by
  intro s n c hpos hn hV hsym
  refine ⟨fun hlow hhigh h => ?_, fun fs hc hfs hstart hend hle h => ?_⟩
  · obtain ⟨l, rfl⟩ := Nat.exists_eq_add_of_le' hlow
    have hlens (j : Nat) : (List.replicate j (ClenItem.len (l + 1))).flatMap itemLens = List.replicate j (l + 1) := by
      simp [List.flatMap, itemLens]
    have hbits : (List.replicate n (ClenItem.len (l + 1))).flatMap (asmItem none) = [] :=
      List.flatMap_eq_nil_iff.mpr fun item hi => List.eq_of_mem_replicate hi ▸ rfl
    have hexec := exec_lh5Clen_of_items (s := s) (table := none) (items := List.replicate n (.len (l + 1))) hpos hn
      (fun item hi => selects_of_const hV (hsym.trans (List.eq_of_mem_replicate hi ▸ rfl)))
      (fun item hi => List.eq_of_mem_replicate hi ▸ ⟨by omega, by omega⟩)
      (fun j hj => by rw [List.take_replicate, hlens]; simp at hj ⊢; omega) (by simp [hlens])
        (by simpa [hlens] using hn)
      (by simpa [hbits] using h)
    rw [hexec, hbits, hlens, State.withLens, List.map_replicate, List.length_replicate]
    rfl
  · have hitems := runItems_selects_legal hV hsym hc hfs
    have hlens := flatMap_itemLens_runItem hc hfs
    have hbits := flatMap_asmItem_runItem hc hfs
    have hzeros := State.withLens_append_zeros (s.consume (9 + fs.length * zeroRunBits c)) .c []
      ((Nat.zero_add _).trans_le hle)
    rw [List.nil_append] at hzeros
    rw [exec_lh5Clen_of_items hpos hn (fun item hi => (hitems item hi).1) (fun item hi => (hitems item hi).2)
      (fun j hj => by rw [length_take_runItems hc hfs]; exact hstart j (by simpa using hj))
        (by simpa [hlens] using hend)
      (by simpa [hlens] using hle) (by rwa [hbits]), hlens, hbits, length_flatMap_bitsOf, hzeros, State.consume,
      ← Nat.add_assoc]
    rfl

/-- Settles O17: the loop takes the legal items one by one, and the last one's run is refused by its own test. -/
theorem clenRejectsRunPastAlphabet : Obligations.ClenRejectsRunPastAlphabet := by
  intro s n hpos hn
  refine ⟨fun lensT items last hT hcodable hstart hpast h => ?_, fun c fs f hV hsym hc hfs hstart hpast h => ?_⟩
  · exact exec_lh5Clen_of_items_past hpos hn (fun item hi => hT.selects (hcodable item hi))
      (fun item hi => ClenItem.legal_of_codable (hcodable item hi)) hstart hpast h
  · have hc : c ≤ 2 := by omega
    have hitems := runItems_selects_legal hV hsym hc hfs
    have hlens := congrArg List.length (flatMap_itemLens_runItem hc hfs)
    have hbits := flatMap_asmItem_runItem hc hfs
    have hfs₀ (g : Nat) (hg : g ∈ fs) : g < 2 ^ zeroRunBits c := hfs g (List.mem_append_left _ hg)
    rw [List.length_replicate] at hlens
    rw [List.map_append, List.map_singleton] at hitems hlens hbits
    rw [← hlens] at hpast ⊢
    rw [← hbits] at h
    exact exec_lh5Clen_of_items_past hpos hn (fun item hi => (hitems item hi).1) (fun item hi => (hitems item hi).2)
      (fun j hj => by rw [length_take_runItems hc hfs₀]; exact hstart j (by simpa using hj)) hpast h

end Sys2Proof.Machine
end

section
/-! Proofs about the operations of the Streaming state and of LZSS one by one (43_lh5_streaming.md R239, R241;
44_lzss.md R274 to R290): distances, the control byte, the literal, exhausted input, and a ring cell never written. -/

namespace Sys2Proof.Machine

theorem exec_lh5Dist (s : State) : exec .lh5Dist s = (distance s).toUnitOutcome := rfl

theorem exec_lzssCtrl (s : State) : exec .lzssCtrl s = (controlByte s).toOutcome := rfl

theorem exec_lzssLit (s : State) : exec .lzssLit s = (literalToken s).toOutcome := rfl

theorem exec_lzssMatch (s : State) : exec .lzssMatch s = (matchToken s).toOutcome := rfl

/-! ## LH5.DIST, and a match before the start (R239, R241) -/

/-- Settles O23: LH5.DIST on its own is the distance a match reads. -/
theorem distReadsExtraBits : Obligations.DistReadsExtraBits := by
  intro s p w h
  rw [exec_lh5Dist, distance_of_codeAt h]
  rfl

/-- Settles O24: the test of the offset stands between the distance and the copy. -/
theorem matchBeforeStartFaults : Obligations.MatchBeforeStartFaults := by
  intro s c p w hlo hhi hcode hoff
  rw [exec_lh5Match hlo (Nat.lt_succ_of_le hhi), matchSymbol_of_codeAt c hcode, if_pos hoff]
  rfl

/-! ## LZSS.CTRL and LZSS.LIT (R274, R277) -/

theorem controlByte_ok {s : State} {b : Byte} (h : s.inPos < s.inLen) (hb : s.memRead .inn s.inPos.toNat = some b) :
    controlByte s = .ok () { s.byteTaken with ctrl := b, ctrlLeft := Config.controlBits } := by
  rw [controlByte, fetchOrEnd_ok .ctrlByte h hb, Res.bind_ok]

/-- Settles O27: FETCH gives the byte at IN_POS. -/
theorem ctrlLoadsControlByte : Obligations.CtrlLoadsControlByte := by
  intro s b h hb
  rw [exec_lzssCtrl, controlByte_ok h hb]
  rfl

theorem State.ringAppended_frame (s : State) (v : Byte) :
    s.ringAppended v = { s with
      outMem := (s.ringAppended v).outMem
      outCount := s.outCount + 1#32
      ringMem := (s.ringAppended v).ringMem
      ringW := s.ringW + 1#12 } := rfl

theorem literalToken_ok {s : State} {b : Byte} (hleft : s.ctrlLeft ≠ 0#4) (h : s.inPos < s.inLen)
    (hb : s.memRead .inn s.inPos.toNat = some b) (hroom : s.outCount < s.expandedSize) :
    literalToken s = .ok () (s.bitTaken.byteTaken.ringAppended b) := by
  rw [literalToken, takeBit_ok hleft, Res.bind_ok, fetchOrEnd_ok (s := s.bitTaken) .literal h hb, Res.bind_ok,
    emitRing_eq_ringAppended (s := s.bitTaken.byteTaken) b hroom]

/-- Settles O28: TAKEBIT, FETCH and EMIT each meet their precondition. -/
theorem lzssLitAppendsByte : Obligations.LzssLitAppendsByte := by
  intro s b hcanon hleft h hb hroom
  refine ⟨s.bitTaken.byteTaken.ringAppended b, ?_, State.ringAppended_frame _ b, fun a => ?_, fun a => ?_⟩
  · rw [exec_lzssLit, literalToken_ok hleft h hb hroom, Res.toOutcome]
  · exact State.memRead_out_ringAppended s.bitTaken.byteTaken b a
  · exact State.memRead_ring_ringAppended (s := s.bitTaken.byteTaken) hcanon b a

/-! ## Exhausted input (R284, R290) -/

section
variable {s : State}

theorem fetchOrEnd_exhausted (place : EofPlace) (h : s.inPos = s.inLen) :
    fetchOrEnd place s = endOfInput place s := by
  rw [fetchOrEnd, fetchByte, if_pos h, Res.bind_ok]

theorem endOfInput_fault {α : Type} (place : EofPlace) (h : s.params.eofPolicy = .fault) :
    (endOfInput place s : Res α) = raise (.truncatedInput place s.inPos) s := by
  rw [endOfInput, h]

theorem endOfInput_finish {α : Type} (place : EofPlace) (h : s.params.eofPolicy = .finish) :
    (endOfInput place s : Res α) = .ended s.finish := by
  rw [endOfInput, h]

theorem fetchSecond_exhausted (h : s.inPos = s.inLen) :
    fetchSecond s = raise (.truncatedInput .pairSecond s.inPos) s := by
  rw [fetchSecond, fetchByte, if_pos h, Res.bind_ok]

/-- A token's first fetch comes after its decision bit. -/
theorem literalToken_eq (hleft : s.ctrlLeft ≠ 0#4) :
    literalToken s = (fetchOrEnd .literal s.bitTaken).bind fun v t => emitRing v t := by
  rw [literalToken, takeBit_ok hleft, Res.bind_ok]

theorem matchToken_eq (hleft : s.ctrlLeft ≠ 0#4) :
    matchToken s = (fetchOrEnd .pairFirst s.bitTaken).bind fun b0 t =>
      (fetchSecond t).bind fun b1 t => copyRing (pairOffset b0 b1) (pairLength b1) 0 t := by
  rw [matchToken, takeBit_ok hleft, Res.bind_ok]

/-- A pair of which only the first byte is there (R284). -/
theorem matchToken_cut (hleft : s.ctrlLeft ≠ 0#4) (h : s.inPos.toNat + 1 = s.inLen.toNat) :
    matchToken s = raise (.truncatedInput .pairSecond s.inLen) { s.bitTaken with inPos := s.inLen } := by
  have hlt : s.inPos < s.inLen := by bv_omega
  have hnext : s.inPos + 1#32 = s.inLen := by bv_omega
  have hfetch : fetchOrEnd .pairFirst s.bitTaken =
      .ok ((s.memRead .inn s.inPos.toNat).getD 0#8) { s.bitTaken with inPos := s.inLen } := by
    rcases fetchOrEnd_cases .pairFirst s.bitTaken with ⟨heq, -⟩ | ⟨heq, -⟩ | ⟨-, e⟩ | ⟨hgt, -⟩
    · exact absurd heq (BitVec.ne_of_lt hlt)
    · exact absurd heq (BitVec.ne_of_lt hlt)
    · rw [e, ← hnext]
      rfl
    · exact absurd hgt (BitVec.not_lt.mpr (BitVec.le_of_lt hlt))
  rw [matchToken_eq hleft, hfetch, Res.bind_ok, fetchSecond_exhausted rfl, raise_bind]

end

/-- Settles O30: the exhausted FETCH is the first of each operation, or the second of a pair, and ends it by the policy.
-/
theorem lzssInputExhausted : Obligations.LzssInputExhausted := by
  intro s
  refine ⟨fun hleft h => ?_, fun h => ⟨fun hp => ?_, fun hp => ?_, fun hleft hp => ⟨?_, ?_⟩, fun hleft hp => ⟨?_, ?_⟩⟩⟩
  · rw [exec_lzssMatch, matchToken_cut hleft h]
    rfl
  · rw [exec_lzssCtrl, controlByte, fetchOrEnd_exhausted _ h, endOfInput_fault _ hp]
    rfl
  · rw [exec_lzssCtrl, controlByte, fetchOrEnd_exhausted _ h, endOfInput_finish _ hp]
    rfl
  · rw [exec_lzssLit, literalToken_eq hleft, fetchOrEnd_exhausted (s := s.bitTaken) _ h,
      endOfInput_fault (s := s.bitTaken) _ hp]
    rfl
  · rw [exec_lzssMatch, matchToken_eq hleft, fetchOrEnd_exhausted (s := s.bitTaken) _ h,
      endOfInput_fault (s := s.bitTaken) _ hp]
    rfl
  · rw [exec_lzssLit, literalToken_eq hleft, fetchOrEnd_exhausted (s := s.bitTaken) _ h,
      endOfInput_finish (s := s.bitTaken) _ hp]
    rfl
  · rw [exec_lzssMatch, matchToken_eq hleft, fetchOrEnd_exhausted (s := s.bitTaken) _ h,
      endOfInput_finish (s := s.bitTaken) _ hp]
    rfl

end Sys2Proof.Machine
end

section
/-! What the operations that emit can do (43_lh5_streaming.md, 44_lzss.md), said once: a run of EMITs, what the two copy
loops are in those terms, and what any run of EMITs keeps. -/

namespace Sys2Proof.Machine

/-! ## Runs of EMITs (R236, R280) -/

/-- State t comes from s by EMITs, each of them within EXPANDED_SIZE; `app` is the EMIT of the decoder (State.appended
or State.ringAppended). -/
inductive State.Emits (app : State → Byte → State) : State → State → Prop
  | refl (s : State) : Emits app s s
  | append {s t : State} (v : Byte) (hroom : s.outCount < s.expandedSize) (h : Emits app (app s v) t) : Emits app s t

/-- An EMIT, of either decoder: the byte stands in OUT at OUT_COUNT, which goes up by 1. -/
structure Appends (app : State → Byte → State) : Prop where
  outCount : ∀ s v, (app s v).outCount = s.outCount + 1#32
  expandedSize : ∀ s v, (app s v).expandedSize = s.expandedSize
  memRead_out : ∀ s v a, (app s v).memRead .out a = if a = s.outCount.toNat then some v else s.memRead .out a

theorem appends_appended : Appends State.appended where
  outCount _ _ := rfl
  expandedSize _ _ := rfl
  memRead_out := State.memRead_out_appended

theorem appends_ringAppended : Appends State.ringAppended where
  outCount _ _ := rfl
  expandedSize _ _ := rfl
  memRead_out := State.memRead_out_ringAppended

theorem Appends.outCount_toNat {app : State → Byte → State} (happ : Appends app) {s : State}
    (hroom : s.outCount < s.expandedSize) (v : Byte) : (app s v).outCount.toNat = s.outCount.toNat + 1 := by
  rw [happ.outCount]
  bv_omega

namespace State.Emits

variable {app : State → Byte → State} {s t : State}

/-- What holds before a run of EMITs and is kept by each holds after it. -/
theorem keeps {P : State → Prop} (h : Emits app s t) (hs : P s)
    (hstep : ∀ s v, s.outCount < s.expandedSize → P s → P (app s v)) : P t := by
  induction h with
  | refl s => exact hs
  | append v hroom _ ih => exact ih (hstep _ v hroom hs)

theorem expandedSize (happ : Appends app) (h : Emits app s t) : t.expandedSize = s.expandedSize :=
  h.keeps (P := fun u => u.expandedSize = s.expandedSize) rfl fun u v _ hu => (happ.expandedSize u v).trans hu

theorem outCount_le (happ : Appends app) (h : Emits app s t) : s.outCount.toNat ≤ t.outCount.toNat :=
  h.keeps (P := fun u => s.outCount.toNat ≤ u.outCount.toNat) le_rfl fun u v hroom hu => by
    rw [happ.outCount_toNat hroom]
    omega

theorem outCount_le_expandedSize (happ : Appends app) (h : Emits app s t) (hs : s.outCount ≤ s.expandedSize) :
    t.outCount ≤ t.expandedSize :=
  h.keeps (P := fun u => u.outCount ≤ u.expandedSize) hs fun u v hroom _ => by
    have hnext := happ.outCount_toNat hroom v
    rw [BitVec.le_def, happ.expandedSize, hnext]
    exact hroom

/-- Bytes below the old and from the new OUT_COUNT on are as they were. -/
theorem memRead_out_elsewhere (happ : Appends app) (h : Emits app s t) {a : Nat}
    (ha : a < s.outCount.toNat ∨ t.outCount.toNat ≤ a) : t.memRead .out a = s.memRead .out a := by
  induction h with
  | refl s => rfl
  | @append s t v hroom h ih =>
    have hle := h.outCount_le happ
    have hnext := happ.outCount_toNat hroom v
    rw [hnext] at ih hle
    rw [ih (by omega), happ.memRead_out, if_neg (by omega)]

/-- R61, R240: exactly the bytes below OUT_COUNT have a value. -/
theorem written (happ : Appends app) (h : Emits app s t)
    (hs : ∀ a, (s.memRead .out a).isSome = true ↔ a < s.outCount.toNat) (a : Nat) :
    (t.memRead .out a).isSome = true ↔ a < t.outCount.toNat :=
  h.keeps (P := fun u => ∀ a, (u.memRead .out a).isSome = true ↔ a < u.outCount.toNat) hs (fun u v hroom hu a => by
    rw [happ.memRead_out, happ.outCount_toNat hroom]
    split_ifs with ha
    · simp [ha]
    · rw [hu a]
      omega) a

theorem appended_frame (h : Emits State.appended s t) : t = { s with outMem := t.outMem, outCount := t.outCount } :=
  h.keeps (P := fun u => u = { s with outMem := u.outMem, outCount := u.outCount }) rfl fun u v _ hu => by
    generalize u.outMem = m, u.outCount = n at hu
    subst hu
    rfl

theorem ringAppended_frame (h : Emits State.ringAppended s t) :
    t = { s with outMem := t.outMem, outCount := t.outCount, ringMem := t.ringMem, ringW := t.ringW } :=
  h.keeps
    (P := fun u => u = { s with outMem := u.outMem, outCount := u.outCount, ringMem := u.ringMem, ringW := u.ringW })
    rfl fun u v _ hu => by
      generalize u.outMem = m, u.outCount = n, u.ringMem = r, u.ringW = w at hu
      subst hu
      rfl

end State.Emits

theorem Res.Ensures.imp {α : Type} {E E' : State → Prop} {P P' : α → State → Prop} {r : Res α} (h : r.Ensures E P)
    (hE : ∀ t, E t → E' t) (hP : ∀ a t, P a t → P' a t) : r.Ensures E' P' := by
  cases h with
  | ok h => exact .ok (hP _ _ h)
  | ended h => exact .ended (hE _ h)
  | stop e => exact .stop e

theorem Res.Ensures.of_ok {α : Type} {E : State → Prop} {P : α → State → Prop} {r : Res α} {a : α} {t : State}
    (h : r.Ensures E P) (e : r = .ok a t) : P a t := by
  subst e
  cases h with
  | ok h => exact h

theorem Res.Ensures.of_ended {α : Type} {E : State → Prop} {P : α → State → Prop} {r : Res α} {t : State}
    (h : r.Ensures E P) (e : r = .ended t) : E t := by
  subst e
  cases h with
  | ended h => exact h

/-! ## The copy loops (R240, R242, R283, R286, R287) -/

/-- The result stops, or it goes on after a run of EMITs, of one at least where there was a byte to copy and room. -/
theorem copyBack_emits (offset k : Nat) (s : State) :
    (copyBack offset k s).Ensures (fun _ => False) fun _ t => s.Emits State.appended t ∧
      (0 < k → s.outCount ≠ s.expandedSize → s.outCount.toNat < t.outCount.toNat) := by
  induction k generalizing s with
  | zero => exact .ok ⟨.refl s, fun h => absurd h (lt_irrefl 0)⟩
  | succ k ih =>
    unfold copyBack
    split_ifs with hfull
    · exact .ok ⟨.refl s, fun _ h => absurd hfull h⟩
    split
    · exact .stop _
    · next v _ =>
      rcases emit_cases v s with ⟨hroom, -⟩ | ⟨-, e⟩
      · rw [emit_eq_appended v hroom, Res.bind_ok]
        refine (ih (s.appended v)).imp (fun _ => id) fun _ t ⟨ht, _⟩ => ⟨.append v hroom ht, fun _ _ => ?_⟩
        have hle := ht.outCount_le appends_appended
        rw [State.appended_outCount_toNat v hroom] at hle
        exact hle
      · rw [e]
        exact .stop _

/-- The copy of LZSS.MATCH: the same, or it raises RingUnwritten at a cell that has no value then. -/
theorem copyRing_emits (f n k : Nat) (s : State) :
    (copyRing f n k s).Ensures
      (fun t => ∃ u cell, s.Emits State.ringAppended u ∧ u.memRead .ring cell = none ∧
        t = u.faulted (.ringUnwritten cell))
      fun _ t => s.Emits State.ringAppended t ∧
        (0 < n → s.outCount ≠ s.expandedSize → s.outCount.toNat < t.outCount.toNat) := by
  induction n generalizing k s with
  | zero => exact .ok ⟨.refl s, fun h => absurd h (lt_irrefl 0)⟩
  | succ n ih =>
    unfold copyRing
    split_ifs with hfull
    · exact .ok ⟨.refl s, fun _ h => absurd hfull h⟩
    split
    · next hnone => exact .ended ⟨s, _, .refl s, hnone, rfl⟩
    · next v _ =>
      rcases emitRing_cases v s with ⟨hroom, -⟩ | ⟨-, e⟩
      · rw [emitRing_eq_ringAppended v hroom, Res.bind_ok]
        refine (ih (k + 1) (s.ringAppended v)).imp ?_ fun _ t ⟨ht, _⟩ => ⟨.append v hroom ht, fun _ _ => ?_⟩
        · rintro t ⟨u, cell, hu, hcell, rfl⟩
          exact ⟨u, cell, .append v hroom hu, hcell, rfl⟩
        · have hle := ht.outCount_le appends_ringAppended
          rw [State.ringAppended_outCount_toNat v hroom] at hle
          exact hle
      · rw [e]
        exact .stop _

/-! ## A ring cell never written (R287) -/

/-- Only a ring with no job-start content has a cell without a value. -/
theorem State.ringFill_of_memRead_none {s : State} {a : Nat} (h : s.memRead .ring a = none) :
    s.params.ringFill = none := by
  have hor : (Memory.lookup s.ringMem a).or s.params.ringFill = none := h
  rw [Option.or_eq_none_iff] at hor
  obtain ⟨-, hfill⟩ := hor
  exact hfill

theorem State.memRead_ring_ringAppended_of_no_fill {s : State} (h : s.params.ringFill = none) (v : Byte) (a : Nat) :
    (s.ringAppended v).memRead .ring a = if a = s.ringW.toNat then some v else s.memRead .ring a := by
  have hstore := Memory.load_store_none s.ringW.toNat v s.ringMem a
  simp only [eq_comm (a := s.ringW.toNat)] at hstore
  have hold : s.memRead .ring a = Memory.load none s.ringMem a := congrArg (Memory.load · s.ringMem a) h
  have hnew : (s.ringAppended v).memRead .ring a =
      Memory.load s.params.ringFill (Memory.store s.params.ringFill s.ringW.toNat v s.ringMem) a := rfl
  rw [hnew, h, hstore, hold]

/-- What a copy from ring cell f on leaves in t when it starts in s and has emitted k bytes, none of which it has
overwritten a source cell with. -/
structure State.RingCopied (f k : Nat) (s t : State) : Prop where
  frame : t = { s with outMem := t.outMem, outCount := t.outCount, ringMem := t.ringMem, ringW := t.ringW }
  outCount : t.outCount.toNat = s.outCount.toNat + k
  memRead_out : ∀ a, t.memRead .out a =
    if s.outCount.toNat ≤ a ∧ a < s.outCount.toNat + k then s.memRead .ring ((f + (a - s.outCount.toNat)) % 4096)
    else s.memRead .out a

/-- The copy comes to source byte k, the first whose cell has no value, and raises there. -/
theorem copyRing_unwritten {f d : Nat} (hd : d ≤ 4096) (k m i : Nat) {s : State}
    (hback : (f + i + d) % 4096 = s.ringW.toNat) (hkd : k < d) (hroom : s.outCount.toNat + k < s.expandedSize.toNat)
    (hbefore : ∀ j, j < k → s.memRead .ring ((f + i + j) % 4096) ≠ none)
    (hcell : s.memRead .ring ((f + i + k) % 4096) = none) :
    ∃ t, copyRing f (k + 1 + m) i s = raise (.ringUnwritten ((f + i + k) % 4096)) t ∧ s.RingCopied (f + i) k t := by
  induction k generalizing i s with
  | zero =>
    have hfull : s.outCount ≠ s.expandedSize := BitVec.ne_of_lt hroom
    have hread : s.memRead .ring (ringIndex f i) = none := hcell
    refine ⟨s, ?_, rfl, rfl, fun a => ?_⟩
    · rw [Nat.zero_add, Nat.add_comm 1 m, copyRing, if_neg hfull, hread]
      rfl
    · rw [if_neg (by omega)]
  | succ k ih =>
    have hlt : s.outCount < s.expandedSize := Nat.lt_of_le_of_lt (Nat.le_add_right _ _) hroom
    obtain ⟨v, hv⟩ := Option.ne_none_iff_exists'.mp (hbefore 0 (Nat.succ_pos k))
    have hnext := State.ringAppended_outCount_toNat v hlt
    have hringW := s.ringAppended_ringW_toNat v
    have hkeep (j : Nat) (hj : j ≤ k) :
        (s.ringAppended v).memRead .ring ((f + (i + 1) + j) % 4096) = s.memRead .ring ((f + i + (j + 1)) % 4096) := by
      rw [State.memRead_ring_ringAppended_of_no_fill (State.ringFill_of_memRead_none hcell), if_neg (by omega),
        show f + (i + 1) + j = f + i + (j + 1) by omega]
    obtain ⟨t, hcopy, hframe, hcount, hout⟩ := ih (i + 1) (s := s.ringAppended v) (by omega) (by omega)
      (by rw [hnext, State.ringAppended_expandedSize]; omega)
      (fun j hj => by rw [hkeep j hj.le]; exact hbefore (j + 1) (by omega)) (by rw [hkeep k le_rfl, hcell])
    have hread : s.memRead .ring (ringIndex f i) = some v := hv
    refine ⟨t, ?_, hframe, by omega, fun a => ?_⟩
    · rw [Nat.add_right_comm, copyRing, if_neg (BitVec.ne_of_lt hlt), hread]
      dsimp only
      rw [emitRing_eq_ringAppended v hlt, Res.bind_ok, hcopy, show f + (i + 1) + k = f + i + (k + 1) by omega]
    · rw [hout, hnext, State.memRead_out_ringAppended]
      obtain hbelow | rfl | habove := lt_trichotomy a s.outCount.toNat
      · rw [if_neg (by omega), if_neg (by omega), if_neg (by omega)]
      · rw [if_neg (by omega), if_pos rfl, if_pos (by omega), Nat.sub_self, ← hv]
      · obtain ⟨j, rfl⟩ := Nat.exists_eq_add_of_lt habove
        by_cases hj : j < k
        · rw [if_pos (by omega), if_pos (by omega), show s.outCount.toNat + j + 1 - (s.outCount.toNat + 1) = j by omega,
            hkeep j hj.le, show s.outCount.toNat + j + 1 - s.outCount.toNat = j + 1 by omega]
        · rw [if_neg (by omega), if_neg (by omega), if_neg (by omega)]

/-- Settles O31: the copy comes to byte k with its cell still unwritten; a ring with a fill has no such cell, and a copy
that does not raise keeps STATE. -/
theorem ringUnwrittenFaultsOnlyWithoutFill : Obligations.RingUnwrittenFaultsOnlyWithoutFill := by
  intro s b0 b1 hleft hlen hb0 hb1
  rw [exec_lzssMatch, matchToken_of_pair hleft hlen hb0 hb1]
  refine ⟨fun f d k hf hk hpos hd hback hkd hroom hbefore hcell => ?_, fun hfill t ht => ?_⟩
  · subst hf
    obtain ⟨m, hm⟩ := Nat.exists_eq_add_of_le (Nat.succ_le_of_lt hk)
    obtain ⟨t, hcopy, hframe, hcount, hout⟩ :=
      copyRing_unwritten (s := s.pairTaken) (f := pairOffset b0 b1) hd k m 0 hback hkd hroom hbefore hcell
    have hlength : pairLength b1 = k + 1 + m := hm
    rw [Nat.add_zero] at hcopy
    exact ⟨t.faulted (.ringUnwritten _), by rw [hlength, hcopy]; rfl, congrArg (State.faulted · _) hframe, hcount, hout⟩
  · have hcopy := copyRing_emits (pairOffset b0 b1) (pairLength b1) 0 s.pairTaken
    rcases Res.toOutcome_eq_next.mp ht with e | e
    · obtain ⟨hemits, -⟩ := hcopy.of_ok e
      exact (congrArg State.state hemits.ringAppended_frame :)
    · obtain ⟨u, cell, hemits, hcell, -⟩ := hcopy.of_ended e
      have hparams : u.params = s.params := (congrArg State.params hemits.ringAppended_frame :)
      exact absurd (hparams ▸ State.ringFill_of_memRead_none hcell) hfill

end Sys2Proof.Machine
end

section
/-! What the operations of a running job can do (42_lh5_block_header.md, 43_lh5_streaming.md, 44_lzss.md), said once for
each kind of operation: where the state goes when it goes on, and from which state it raises. The frames of the
operations follow. -/

namespace Sys2Proof.Machine

/-- State t is what a raise with the given FAULT_CODE leaves of a state that meets F (60_exceptions.md R350). -/
def RaisedFrom (F : State → Prop) (code : BitVec 3) (t : State) : Prop :=
  ∃ u cause, F u ∧ Cause.code cause = code ∧ t = u.faulted cause

theorem RaisedFrom.imp {F G : State → Prop} {code : BitVec 3} {t : State} (h : RaisedFrom F code t)
    (hFG : ∀ u, F u → G u) : RaisedFrom G code t := by
  obtain ⟨u, cause, hu, hcode, ht⟩ := h
  exact ⟨u, cause, hFG u hu, hcode, ht⟩

/-- A malformed table is raised from the state the operation has come to. -/
theorem raise_malformed {α : Type} {F : State → Prop} {P : α → State → Prop} {s : State} (h : F s) (sub : TableCause)
    (info : Nat) : (raise (.malformedTable sub info) s : Res α).Ensures (RaisedFrom F 1#3) P :=
  .ended ⟨s, _, h, rfl, rfl⟩

/-! ## The sections of a header -/

/-- What the operations of X's section do to a state: they move the cursor on and write the unit X; a free symbol is
drawn only by LH5.CLEN with a table T that does not decode (log 23). LEN_X keeps its size. -/
def State.SectionTo (x : Alphabet) (s t : State) : Prop :=
  ∃ n f u, t = ({ s with bitpos := n, freeIx := f } : State).setUnit x u ∧ s.bitpos ≤ n ∧
    (x ≠ .c ∨ s.tabT.decodes .t → f = s.freeIx) ∧ ((s.unit x).len.length = x.size → u.len.length = x.size)

namespace State.SectionTo

variable {x : Alphabet} {s t : State}

theorem refl (s : State) : SectionTo x s s :=
  ⟨s.bitpos, s.freeIx, s.unit x, (s.setUnit_unit x).symm, le_rfl, fun _ => rfl, id⟩

theorem consume (h : SectionTo x s t) (k : Nat) : SectionTo x s (t.consume k) := by
  obtain ⟨n, f, u, rfl, hn, hf, hu⟩ := h
  exact ⟨n + k, f, u, by cases x <;> rfl, hn.trans (Nat.le_add_right n k), hf, hu⟩

theorem unit_length (h : SectionTo x s t) (hlen : (s.unit x).len.length = x.size) : (t.unit x).len.length = x.size := by
  obtain ⟨n, f, u, rfl, -, -, hu⟩ := h
  rw [State.unit_setUnit_same]
  exact hu hlen

theorem setUnit (h : SectionTo x s t) {v : TableUnit}
    (hv : (t.unit x).len.length = x.size → v.len.length = x.size) : SectionTo x s (t.setUnit x v) := by
  obtain ⟨n, f, u, rfl, hn, hf, hu⟩ := h
  rw [State.unit_setUnit_same] at hv
  exact ⟨n, f, v, State.setUnit_setUnit _ x u v, hn, hf, fun hlen => hv (hu hlen)⟩

theorem setLen (h : SectionTo x s t) (i l : Nat) : SectionTo x s (t.setLen x i l) :=
  h.setUnit fun hlen => List.length_set.trans hlen

theorem clearLens (h : SectionTo x s t) : SectionTo x s (t.clearLens x) :=
  h.setUnit fun _ => List.length_replicate

theorem trans {r : State} (h : SectionTo x r s) (h' : SectionTo x s t) : SectionTo x r t := by
  obtain ⟨n, f, u, rfl, hn, hf, hu⟩ := h
  obtain ⟨n', f', u', rfl, hn', hf', hu'⟩ := h'
  rw [State.unit_setUnit_same] at hu'
  refine ⟨n', f', u', by cases x <;> rfl, ?_, fun hfree => ?_, fun hlen => hu' (hu hlen)⟩
  · exact hn.trans (by cases x <;> exact hn')
  · refine (hf' ?_).trans ?_
    · cases x with
      | t => exact .inl nofun
      | p => exact .inl nofun
      | c => exact hfree
    · cases x <;> exact hf hfree

/-- DECODE(T) inside LH5.CLEN. -/
theorem draw (h : SectionTo .c s t) (k : Nat) (hT : ¬ t.tabT.decodes .t) :
    SectionTo .c s { t with bitpos := t.bitpos + k, freeIx := t.freeIx + 1 } := by
  obtain ⟨n, f, u, rfl, hn, -, hu⟩ := h
  refine ⟨n + k, f + 1, u, rfl, hn.trans (Nat.le_add_right n k), fun hfree => ?_, hu⟩
  rcases hfree with hx | hT'
  · exact absurd rfl hx
  · exact absurd hT' hT

end State.SectionTo

/-- DECODE(X) draws a free symbol only where the table does not decode. -/
theorem not_decodes_of_symbolAt_none {x : Alphabet} {s : State} (hV : (s.unit x).constV = false)
    (h : (s.unit x).symbolAt x (s.peek 16) = none) : ¬ (s.unit x).decodes x := by
  rintro (⟨hconst, -⟩ | ⟨-, hdecode⟩)
  · cases hV.symm.trans hconst
  · obtain ⟨v, hv, -⟩ := hdecode _ (s.peek_lt 16)
    cases h.symm.trans hv

section
variable {x : Alphabet} {s t : State}

theorem lengthCode_sectionTo (h : s.SectionTo x t) :
    (lengthCode t).Ensures (RaisedFrom (s.SectionTo x) 1#3) fun _ t' => s.SectionTo x t' := by
  rcases lengthCode_cases t with ⟨-, e⟩ | ⟨-, e⟩ <;> rw [e]
  · exact .ok (h.consume _)
  · exact raise_malformed h _ _

theorem decodeSymbol_sectionTo (h : s.SectionTo .c t) : ∃ v t', decodeSymbol .t t = .ok v t' ∧ s.SectionTo .c t' := by
  rcases decodeSymbol_cases .t t with ⟨-, e⟩ | ⟨-, v, -, e⟩ | ⟨hV, hnone, -, e⟩
  · exact ⟨_, _, e, h⟩
  · exact ⟨_, _, e, h.consume _⟩
  · exact ⟨_, _, e, h.draw _ (not_decodes_of_symbolAt_none hV hnone)⟩

theorem zeroRun_sectionTo (i run : Nat) (h : s.SectionTo x t) :
    (zeroRun i run t).Ensures (RaisedFrom (s.SectionTo x) 1#3) fun _ t' => s.SectionTo x t' := by
  rcases zeroRun_cases i run t with ⟨-, e⟩ | ⟨-, e⟩ <;> rw [e]
  · exact .ok h
  · exact raise_malformed h _ _

theorem cItem_sectionTo (v i : Nat) (h : s.SectionTo .c t) :
    (cItem v i t).Ensures (RaisedFrom (s.SectionTo .c) 1#3) fun _ t' => s.SectionTo .c t' := by
  unfold cItem
  split_ifs
  · exact zeroRun_sectionTo _ _ h
  · exact zeroRun_sectionTo _ _ (h.consume _)
  · exact zeroRun_sectionTo _ _ (h.consume _)
  · exact .ok (h.setLen _ _)

theorem tLengths_sectionTo (n fuel i : Nat) (h : s.SectionTo .t t) :
    (tLengths n fuel i t).Ensures (RaisedFrom (s.SectionTo .t) 1#3) fun _ t' => s.SectionTo .t t' := by
  induction fuel generalizing i t with
  | zero => exact .ok h
  | succ fuel ih =>
    unfold tLengths
    split
    · refine (lengthCode_sectionTo h).bind fun l t' ht => ?_
      dsimp only
      split
      · exact ih _ ((ht.setLen i l).consume _)
      · exact ih _ (ht.setLen i l)
    · exact .ok h

theorem cLengths_sectionTo (n fuel i : Nat) (h : s.SectionTo .c t) :
    (cLengths n fuel i t).Ensures (RaisedFrom (s.SectionTo .c) 1#3) fun _ t' => s.SectionTo .c t' := by
  induction fuel generalizing i t with
  | zero => exact .ok h
  | succ fuel ih =>
    unfold cLengths
    split_ifs
    · obtain ⟨v, t', e, ht⟩ := decodeSymbol_sectionTo h
      rw [e, Res.bind_ok]
      exact (cItem_sectionTo v i ht).bind fun j t'' ht' => ih j ht'
    · exact .ok h

theorem pLengths_sectionTo (rem i : Nat) (h : s.SectionTo .p t) :
    (pLengths rem i t).Ensures (RaisedFrom (s.SectionTo .p) 1#3) fun _ t' => s.SectionTo .p t' := by
  induction rem generalizing i t with
  | zero => exact .ok h
  | succ rem ih => exact (lengthCode_sectionTo h).bind fun l t' ht => ih (i + 1) (ht.setLen i l)

theorem lengthLoop_sectionTo (n : Nat) (h : s.SectionTo x t) :
    (lengthLoop x n t).Ensures (RaisedFrom (s.SectionTo x) 1#3) fun _ t' => s.SectionTo x t' := by
  cases x with
  | t => exact tLengths_sectionTo n n 0 h
  | c => exact cLengths_sectionTo n n 0 h
  | p => exact pLengths_sectionTo n 0 h

/-- HT.BUILD makes a table that decodes, or raises; even where it refuses a node, LEN_X keeps its size. -/
theorem buildTable_sectionTo (h : s.SectionTo x t) (hlen : (t.unit x).len.length = x.size) :
    (buildTable x t).Ensures (RaisedFrom (s.SectionTo x) 1#3) fun _ t' => s.SectionTo x t' ∧ (t'.unit x).decodes x := by
  have hkeep {u : TableUnit} (hu : u.inBuild x) : s.SectionTo x (t.setUnit x u) := by
    obtain ⟨⟨hsize, -⟩, -⟩ := hu
    exact h.setUnit fun _ => hsize
  have hbuild (hle : lengthAbove16 (t.unit x).lens = none) :=
    assignAll_leavesInBuild (t.unit x).lens 0 (startOffsets (t.unit x).lens) (u := (t.unit x).cleared x)
      ⟨TableUnit.shaped_cleared hlen (lengthAbove16_eq_none.mp hle), rfl⟩
  rcases buildTable_cases x t with ⟨_, -, e⟩ | ⟨-, -, e⟩ | ⟨hle, -, u, hu, e⟩ | ⟨hle, -, u, hu, e⟩
  · rw [e]
    exact raise_malformed h _ _
  · rw [e]
    exact raise_malformed h _ _
  · have hleft := hbuild hle
    rw [hu] at hleft
    rw [e]
    exact raise_malformed (hkeep hleft) _ _
  · have hdecodes := buildTable_decodes hlen e
    have hleft := hbuild hle
    rw [hu] at hleft
    rw [e]
    exact .ok ⟨hkeep hleft, hdecodes⟩

theorem constTable_sectionTo (c : Nat) (h : s.SectionTo x t) :
    (constTable x c t).Ensures (RaisedFrom (s.SectionTo x) 1#3)
      fun _ t' => s.SectionTo x t' ∧ (t'.unit x).decodes x := by
  rcases constTable_cases x c t with ⟨hc, e⟩ | ⟨-, e⟩ <;> rw [e]
  · refine .ok ⟨h.setUnit fun _ => List.length_replicate, ?_⟩
    rw [State.unit_setUnit_same]
    exact .inl ⟨rfl, hc⟩
  · exact raise_malformed h _ _

/-- All that a section can do: it leaves a table that decodes, or raises a malformed table. -/
theorem sectionPart_ensures (x : Alphabet) (s : State) :
    (sectionPart x s).Ensures (RaisedFrom (s.SectionTo x) 1#3) fun _ t => s.SectionTo x t ∧ (t.unit x).decodes x := by
  have hcount := (State.SectionTo.refl (x := x) s).consume x.countBits
  rw [sectionPart_eq]
  split_ifs
  · exact constTable_sectionTo _ (hcount.consume _)
  · exact raise_malformed hcount _ _
  · have hlen : (((s.consume x.countBits).withLens x []).unit x).len.length = x.size := by
      rw [← State.clearLens_eq_withLens, State.unit_clearLens_same]
      exact List.length_replicate
    have hclear : s.SectionTo x ((s.consume x.countBits).withLens x []) := hcount.clearLens
    have hbody := (lengthLoop_sectionTo (s.peek x.countBits) (.refl _)).bind fun _ t ht =>
      buildTable_sectionTo ht (ht.unit_length hlen)
    exact hbody.imp (fun t ht => ht.imp fun u hu => hclear.trans hu) fun _ t ⟨ht, hdecodes⟩ =>
      ⟨hclear.trans ht, hdecodes⟩

end

/-! ## LH5.HDR (R192) -/

/-- What the parts of LH5.HDR do to a state: they move the cursor on and write BLOCK_COUNT and the table units. -/
def State.HeaderTo (s t : State) : Prop :=
  ∃ n k a b c, t = { s with bitpos := n, blockCount := k, tabT := a, tabC := b, tabP := c } ∧ s.bitpos ≤ n

namespace State.HeaderTo

variable {x : Alphabet} {s t u : State}

theorem blockCountPart (s : State) : s.HeaderTo (blockCountPart s) :=
  ⟨_, _, _, _, _, rfl, Nat.le_add_right _ _⟩

/-- A section after the parts before it draws no free symbol: LH5.CLEN comes after a section T that decodes. -/
theorem after_section (h : s.HeaderTo t) (h' : t.SectionTo x u) (hT : x ≠ .c ∨ t.tabT.decodes .t) : s.HeaderTo u := by
  obtain ⟨n, k, a, b, c, rfl, hn⟩ := h
  obtain ⟨n', f, v, rfl, hn', hf, -⟩ := h'
  obtain rfl := hf hT
  cases x with
  | t => exact ⟨n', k, v, b, c, rfl, hn.trans hn'⟩
  | c => exact ⟨n', k, a, v, c, rfl, hn.trans hn'⟩
  | p => exact ⟨n', k, a, b, v, rfl, hn.trans hn'⟩

end State.HeaderTo

/-- A section leaves the other units alone. -/
theorem State.SectionTo.unit_other {x y : Alphabet} {s t : State} (h : s.SectionTo x t) (hxy : x ≠ y) :
    t.unit y = s.unit y := by
  obtain ⟨n, f, u, rfl, -⟩ := h
  rw [State.unit_setUnit_other _ u hxy]
  cases y <;> rfl

/-- Where LH5.HDR goes on to: Streaming, with tables C and P that decode. -/
def State.HeaderDone (s t : State) : Prop :=
  ∃ u, s.HeaderTo u ∧ u.tabC.decodes .c ∧ u.tabP.decodes .p ∧ t = { u with phase := .streaming }

/-- All that LH5.HDR can do. -/
theorem blockHeader_ensures (s : State) :
    (blockHeader s).Ensures (RaisedFrom s.HeaderTo 1#3) fun _ t => s.HeaderDone t := by
  have hcount := State.HeaderTo.blockCountPart s
  refine ((sectionPart_ensures .t (blockCountPart s)).imp
    (fun t ht => ht.imp fun u hu => hcount.after_section hu (.inl nofun)) fun _ t => id).bind fun _ t ⟨hT, hdecT⟩ => ?_
  have ht := hcount.after_section hT (.inl nofun)
  refine ((sectionPart_ensures .c t).imp (fun u hu => hu.imp fun v hv => ht.after_section hv (.inr hdecT))
    fun _ u => id).bind fun _ u ⟨hC, hdecC⟩ => ?_
  have hu := ht.after_section hC (.inr hdecT)
  refine ((sectionPart_ensures .p u).imp (fun v hv => hv.imp fun w hw => hu.after_section hw (.inl nofun))
    fun _ v => id).bind fun _ v ⟨hP, hdecP⟩ => ?_
  have hkept : v.tabC = u.tabC := hP.unit_other (y := .c) nofun
  exact .ok ⟨v, hu.after_section hP (.inl nofun), hkept ▸ hdecC, hdecP, rfl⟩

/-! ## The symbols of a block (43_lh5_streaming.md R232 to R242) -/

/-- What DECODE(X) and the distance after it do to a state: they move the cursor on; a free symbol is drawn only where
table X does not decode (log 23). -/
def State.DecodeTo (x : Alphabet) (s t : State) : Prop :=
  ∃ n f, t = { s with bitpos := n, freeIx := f } ∧ s.bitpos ≤ n ∧ ((s.unit x).decodes x → f = s.freeIx)

section
variable {s : State}

theorem decodeSymbol_decodeTo (x : Alphabet) (s : State) : ∃ v t, decodeSymbol x s = .ok v t ∧ s.DecodeTo x t := by
  rcases decodeSymbol_cases x s with ⟨-, e⟩ | ⟨-, v, -, e⟩ | ⟨hV, hnone, -, e⟩
  · exact ⟨_, _, e, _, _, rfl, le_rfl, fun _ => rfl⟩
  · exact ⟨_, _, e, _, _, rfl, Nat.le_add_right _ _, fun _ => rfl⟩
  · exact ⟨_, _, e, _, _, rfl, Nat.le_add_right _ _,
      fun hdecodes => absurd hdecodes (not_decodes_of_symbolAt_none hV hnone)⟩

theorem distance_decodeTo (s : State) : ∃ d t, distance s = .ok d t ∧ s.DecodeTo .p t := by
  obtain ⟨p, t, e, n, f, rfl, hn, hf⟩ := decodeSymbol_decodeTo .p s
  exact ⟨_, _, distance_of_symbol e, _, _, rfl, hn.trans (Nat.le_add_right _ _), hf⟩

/-- All that LH5.LIT can do. -/
theorem literalSymbol_ensures (c : Nat) (s : State) :
    (literalSymbol c s).Ensures (fun _ => False) fun _ t =>
      s.Emits State.appended t ∧ s.outCount.toNat < t.outCount.toNat := by
  unfold literalSymbol
  rcases emit_cases (BitVec.ofNat 8 c) s with ⟨hroom, -⟩ | ⟨-, e⟩
  · rw [emit_eq_appended _ hroom]
    refine .ok ⟨.append _ hroom (.refl _), ?_⟩
    rw [State.appended_outCount_toNat _ hroom]
    exact Nat.lt_succ_self _
  · rw [e]
    exact .stop _

/-- All that LH5.MATCH can do: a run of EMITs, of one at least where there is room, after the distance; or
OffsetBeforeStart there. -/
theorem matchSymbol_ensures (c : Nat) (s : State) :
    (matchSymbol c s).Ensures (RaisedFrom (s.DecodeTo .p) 2#3) fun _ t =>
      ∃ u, s.DecodeTo .p u ∧ u.Emits State.appended t ∧
        (u.outCount ≠ u.expandedSize → u.outCount.toNat < t.outCount.toNat) := by
  obtain ⟨d, u, e, hu⟩ := distance_decodeTo s
  rw [matchSymbol, e, Res.bind_ok]
  dsimp only
  split_ifs
  · exact .ended ⟨u, _, hu, rfl, rfl⟩
  · refine (copyBack_emits (offsetOf d) (matchLength c) u).imp (fun _ => False.elim) fun _ t ⟨ht, hgrows⟩ =>
      ⟨u, hu, ht, hgrows (Nat.succ_pos _)⟩

/-- What LH5.SYM does to a state before it emits: one symbol is counted, and the cursor moves on. -/
def State.SymbolTo (s t : State) : Prop :=
  ∃ n f, t = { s with bitpos := n, freeIx := f, blockCount := s.blockCount - 1#16 } ∧ s.bitpos ≤ n ∧
    (s.tabC.decodes .c → s.tabP.decodes .p → f = s.freeIx)

/-- All that LH5.SYM can do: a run of EMITs, of one at least where there is room, and then the end of the block where
the counter is 0; or OffsetBeforeStart before it. -/
theorem streamSymbol_ensures (s : State) :
    (streamSymbol s).Ensures (RaisedFrom s.SymbolTo 2#3) fun _ t =>
      ∃ u q, s.SymbolTo u ∧ u.Emits State.appended q ∧
        (u.outCount ≠ u.expandedSize → u.outCount.toNat < q.outCount.toNat) ∧ t = q.endBlock := by
  obtain ⟨c, r, e, n, f, rfl, hn, hf⟩ := decodeSymbol_decodeTo .c s.countSymbol
  have hr : s.SymbolTo { s.countSymbol with bitpos := n, freeIx := f } := ⟨n, f, rfl, hn, fun hC _ => hf hC⟩
  rw [streamSymbol, e, Res.bind_ok]
  refine Res.Ensures.bind (P := fun _ q => ∃ u, s.SymbolTo u ∧ u.Emits State.appended q ∧
    (u.outCount ≠ u.expandedSize → u.outCount.toNat < q.outCount.toNat)) ?_
    fun _ q ⟨u, hu, hq, hgrows⟩ => .ok ⟨u, q, hu, hq, hgrows, rfl⟩
  have htrans {u : State} (hu : ({ s.countSymbol with bitpos := n, freeIx := f } : State).DecodeTo .p u) :
      s.SymbolTo u := by
    obtain ⟨n', f', rfl, hn', hf'⟩ := hu
    exact ⟨n', f', rfl, hn.trans hn', fun hC hP => (hf' hP).trans (hf hC)⟩
  split_ifs
  · exact (literalSymbol_ensures c _).imp (fun _ => False.elim) fun _ t ⟨ht, hgrows⟩ => ⟨_, hr, ht, fun _ => hgrows⟩
  · exact (matchSymbol_ensures c _).imp (fun t ht => ht.imp fun u => htrans) fun _ t ⟨u, hu, ht⟩ => ⟨u, htrans hu, ht⟩

end

/-! ## The tokens of LZSS (44_lzss.md R272 to R290) -/

/-- What an LZSS operation does to a state before it emits: it takes decision bits or loads a control byte, and moves
the cursor on, at most to IN_LEN. -/
def State.TokenTo (s t : State) : Prop :=
  ∃ p c l, t = { s with inPos := p, ctrl := c, ctrlLeft := l } ∧ s.inPos.toNat ≤ p.toNat ∧
    (s.inPos ≤ s.inLen → p ≤ s.inLen) ∧ (s.ctrlLeft ≤ 8#4 → l ≤ 8#4)

/-- How an LZSS operation ends without going on: input cut short, the job done by the policy, or a source cell never
written, the bytes before it emitted. -/
inductive State.TokenEnds (s : State) : State → Prop
  | truncated {u : State} (place : EofPlace) (h : s.TokenTo u) (hend : u.inPos = u.inLen)
      (hpolicy : u.params.eofPolicy = .fault ∨ place = .pairSecond) :
      TokenEnds s (u.faulted (.truncatedInput place u.inPos))
  | finished {u : State} (h : s.TokenTo u) (hstart : u.inPos = s.inPos) (hend : u.inPos = u.inLen)
      (hpolicy : u.params.eofPolicy = .finish) : TokenEnds s u.finish
  | unwritten {u q : State} (cell : Nat) (h : s.TokenTo u) (hq : u.Emits State.ringAppended q)
      (hcell : q.memRead .ring cell = none) : TokenEnds s (q.faulted (.ringUnwritten cell))

/-- Where a token goes on to: a run of EMITs, of one at least where there is room. -/
def State.TokenDone (s t : State) : Prop :=
  ∃ u, s.TokenTo u ∧ u.Emits State.ringAppended t ∧
    (u.outCount ≠ u.expandedSize → u.outCount.toNat < t.outCount.toNat)

section
variable {s t : State}

theorem State.TokenTo.refl (s : State) : s.TokenTo s := ⟨_, _, _, rfl, le_rfl, id, id⟩

theorem State.TokenTo.bitTaken (h : s.TokenTo t) (hleft : t.ctrlLeft ≠ 0#4) : s.TokenTo t.bitTaken := by
  obtain ⟨p, c, l, rfl, hp, hle, hl⟩ := h
  refine ⟨p, _, _, rfl, hp, hle, fun h8 => ?_⟩
  have hl := hl h8
  have hne : l ≠ 0#4 := hleft
  show l - 1#4 ≤ 8#4
  bv_omega

theorem State.TokenTo.byteTaken (h : s.TokenTo t) (hlt : t.inPos < t.inLen) : s.TokenTo t.byteTaken := by
  obtain ⟨p, c, l, rfl, hp, -, hl⟩ := h
  have hlt : p < s.inLen := hlt
  have hnext : (p + 1#32).toNat = p.toNat + 1 := by bv_omega
  refine ⟨_, c, l, rfl, ?_, fun _ => ?_, hl⟩
  · rw [hnext]
    omega
  · rw [BitVec.le_def, hnext]
    exact hlt

/-- The first FETCH of an operation. -/
theorem fetchOrEnd_ensures (place : EofPlace) (h : s.TokenTo t) (hstart : t.inPos = s.inPos) :
    (fetchOrEnd place t).Ensures s.TokenEnds fun _ u => s.TokenTo u := by
  rcases fetchOrEnd_cases place t with ⟨hend, hp, e⟩ | ⟨hend, hp, e⟩ | ⟨hlt, e⟩ | ⟨-, e⟩ <;> rw [e]
  · exact .ended (.truncated place h hend (.inl hp))
  · exact .ended (.finished h hstart hend hp)
  · exact .ok (h.byteTaken hlt)
  · exact .stop _

theorem fetchSecond_ensures (h : s.TokenTo t) : (fetchSecond t).Ensures s.TokenEnds fun _ u => s.TokenTo u := by
  rcases fetchSecond_cases t with ⟨hend, e⟩ | ⟨hlt, e⟩ | ⟨-, e⟩ <;> rw [e]
  · exact .ended (.truncated .pairSecond h hend (.inr rfl))
  · exact .ok (h.byteTaken hlt)
  · exact .stop _

theorem takeBit_ensures (s : State) :
    (takeBit s).Ensures s.TokenEnds fun _ u => s.TokenTo u ∧ u.inPos = s.inPos := by
  rcases takeBit_cases s with ⟨hleft, e⟩ | ⟨-, e⟩ <;> rw [e]
  · exact .ok ⟨(State.TokenTo.refl s).bitTaken hleft, rfl⟩
  · exact .stop _

/-- All that LZSS.CTRL can do. -/
theorem controlByte_ensures (s : State) :
    (controlByte s).Ensures s.TokenEnds fun _ t => s.TokenTo t ∧ t.ctrlLeft = 8#4 := by
  refine (fetchOrEnd_ensures .ctrlByte (.refl s) rfl).bind fun b u hu => .ok ⟨?_, rfl⟩
  obtain ⟨p, c, l, rfl, hp, hle, -⟩ := hu
  exact ⟨p, _, _, rfl, hp, hle, fun _ => BitVec.le_refl _⟩

/-- All that LZSS.LIT can do. -/
theorem literalToken_ensures (s : State) : (literalToken s).Ensures s.TokenEnds fun _ t => s.TokenDone t := by
  refine (takeBit_ensures s).bind fun _ u ⟨hu, hstart⟩ => (fetchOrEnd_ensures .literal hu hstart).bind fun v q hq => ?_
  rcases emitRing_cases v q with ⟨hroom, -⟩ | ⟨-, e⟩
  · rw [emitRing_eq_ringAppended v hroom]
    refine .ok ⟨q, hq, .append v hroom (.refl _), fun _ => ?_⟩
    rw [State.ringAppended_outCount_toNat v hroom]
    exact Nat.lt_succ_self _
  · rw [e]
    exact .stop _

/-- All that LZSS.MATCH can do. -/
theorem matchToken_ensures (s : State) : (matchToken s).Ensures s.TokenEnds fun _ t => s.TokenDone t := by
  refine (takeBit_ensures s).bind fun _ u ⟨hu, hstart⟩ => (fetchOrEnd_ensures .pairFirst hu hstart).bind fun b0 q hq =>
    (fetchSecond_ensures hq).bind fun b1 r hr => ?_
  refine (copyRing_emits (pairOffset b0 b1) (pairLength b1) 0 r).imp ?_ fun _ t ⟨ht, hgrows⟩ =>
    ⟨r, hr, ht, hgrows (Nat.succ_pos _)⟩
  rintro t ⟨w, cell, hw, hcell, rfl⟩
  exact .unwritten cell hr hw hcell

end

end Sys2Proof.Machine
end

section
/-! What one step can do (45_host_commands.md R310 to R318), said once: a step of the block by the operation it selects,
a command, or a host access. The invariants of every step follow from it. -/

namespace Sys2Proof.Machine

/-! ## A step of the block -/

/-- The job runs with the given codec, and its output is not complete: step selection comes to an operation. -/
structure State.Working (s : State) (codec : BitVec 3) : Prop where
  run : s.state = .run
  codec : s.codec = codec
  more : s.outCount ≠ s.expandedSize

/-- All that a step of the block can do. -/
inductive State.BlockTo (s : State) : State → Prop
  | rests (h : s.state ≠ .run) : BlockTo s s
  | finishes (hrun : s.state = .run) (hcodec : s.codecLegal = true) (hfull : s.outCount = s.expandedSize) :
      BlockTo s s.finish
  | header {t : State} (hs : s.Working Config.codecLh5) (hphase : s.phase = .blockHeader) (h : s.HeaderDone t) :
      BlockTo s t
  | headerRaises {t : State} (hs : s.Working Config.codecLh5) (hphase : s.phase = .blockHeader)
      (h : RaisedFrom s.HeaderTo 1#3 t) : BlockTo s t
  | symbol {u q : State} (hs : s.Working Config.codecLh5) (hphase : s.phase = .streaming) (h : s.SymbolTo u)
      (hq : u.Emits State.appended q) (hgrows : u.outCount.toNat < q.outCount.toNat) : BlockTo s q.endBlock
  | symbolRaises {t : State} (hs : s.Working Config.codecLh5) (hphase : s.phase = .streaming)
      (h : RaisedFrom s.SymbolTo 2#3 t) : BlockTo s t
  | control {t : State} (hs : s.Working Config.codecLzss) (hleft : s.ctrlLeft = 0#4) (h : s.TokenTo t)
      (hloaded : t.ctrlLeft = 8#4) : BlockTo s t
  | token {u t : State} (hs : s.Working Config.codecLzss) (hleft : s.ctrlLeft ≠ 0#4) (h : s.TokenTo u)
      (ht : u.Emits State.ringAppended t) (hgrows : u.outCount.toNat < t.outCount.toNat) : BlockTo s t
  | tokenEnds {t : State} (hs : s.Working Config.codecLzss) (h : s.TokenEnds t) : BlockTo s t

section
variable {s t : State}

theorem State.BlockTo.of_tokenResult {r : Res Unit} (hs : s.Working Config.codecLzss) (hleft : s.ctrlLeft ≠ 0#4)
    (h : r.Ensures s.TokenEnds fun _ t => s.TokenDone t) (ht : r.toOutcome = .next t) : s.BlockTo t := by
  rcases Res.toOutcome_eq_next.mp ht with e | e
  · obtain ⟨u, hu, hemits, hgrows⟩ := h.of_ok e
    refine .token hs hleft hu hemits (hgrows ?_)
    obtain ⟨p, c, l, rfl, -⟩ := hu
    exact hs.more
  · exact .tokenEnds hs (h.of_ended e)

theorem blockStep_to (ht : blockStep s = .next t) : s.BlockTo t := by
  unfold blockStep at ht
  rcases s.selection_cases with ⟨hrun, e⟩ | ⟨hrun, hcodec, hfull, e⟩ | ⟨hrun, hcodec, hmore, hphase, e⟩ |
    ⟨hrun, hcodec, hmore, hphase, e⟩ | ⟨hrun, hcodec, hmore, hleft, e⟩ | ⟨hrun, hcodec, hmore, hleft, -, e⟩ |
    ⟨hrun, hcodec, hmore, hleft, -, e⟩ | ⟨-, -, e⟩ <;> rw [e] at ht
  · exact Host.Outcome.next.inj ht ▸ .rests hrun
  · exact Host.Outcome.next.inj ht ▸ .finishes hrun hcodec hfull
  · rcases Res.toOutcome_eq_next.mp ht with e | e
    · exact .header ⟨hrun, hcodec, hmore⟩ hphase ((blockHeader_ensures s).of_ok e)
    · exact .headerRaises ⟨hrun, hcodec, hmore⟩ hphase ((blockHeader_ensures s).of_ended e)
  · rcases Res.toOutcome_eq_next.mp ht with e | e
    · obtain ⟨u, q, hu, hq, hgrows, rfl⟩ := (streamSymbol_ensures s).of_ok e
      refine .symbol ⟨hrun, hcodec, hmore⟩ hphase hu hq (hgrows ?_)
      obtain ⟨n, f, rfl, -⟩ := hu
      exact hmore
    · exact .symbolRaises ⟨hrun, hcodec, hmore⟩ hphase ((streamSymbol_ensures s).of_ended e)
  · rcases Res.toOutcome_eq_next.mp ht with e | e
    · obtain ⟨h, hloaded⟩ := (controlByte_ensures s).of_ok e
      exact .control ⟨hrun, hcodec, hmore⟩ hleft h hloaded
    · exact .tokenEnds ⟨hrun, hcodec, hmore⟩ ((controlByte_ensures s).of_ended e)
  · exact .of_tokenResult ⟨hrun, hcodec, hmore⟩ hleft (literalToken_ensures s) ht
  · exact .of_tokenResult ⟨hrun, hcodec, hmore⟩ hleft (matchToken_ensures s) ht
  · cases ht

end

/-! ### The same as cursor moves around a run of EMITs -/

/-- State t is s with registers of the decoders, the tables, STATE and the fault registers written, the cursors not
moved back; OUT_COUNT, RING_W and the memories are as they were. -/
def State.MovesTo (s t : State) : Prop :=
  t = { s with
    bitpos := t.bitpos, blockCount := t.blockCount, phase := t.phase, tabT := t.tabT, tabC := t.tabC, tabP := t.tabP
    freeIx := t.freeIx, inPos := t.inPos, ctrl := t.ctrl, ctrlLeft := t.ctrlLeft, state := t.state
    faultCode := t.faultCode, faultSub := t.faultSub, faultInfo := t.faultInfo } ∧
  s.bitpos ≤ t.bitpos ∧ s.inPos.toNat ≤ t.inPos.toNat

/-- `app` is the EMIT of the decoder the codec names. -/
inductive EmitOf : BitVec 3 → (State → Byte → State) → Prop
  | lh5 : EmitOf Config.codecLh5 State.appended
  | lzss : EmitOf Config.codecLzss State.ringAppended

theorem EmitOf.appends {codec : BitVec 3} {app : State → Byte → State} (h : EmitOf codec app) : Appends app := by
  cases h with
  | lh5 => exact appends_appended
  | lzss => exact appends_ringAppended

theorem State.Working.emitOf_lh5 {s : State} (h : s.Working Config.codecLh5) : EmitOf s.codec State.appended := by
  rw [h.codec]
  exact .lh5

theorem State.Working.emitOf_lzss {s : State} (h : s.Working Config.codecLzss) : EmitOf s.codec State.ringAppended := by
  rw [h.codec]
  exact .lzss

theorem exists_emitOf {s : State} (h : s.codecLegal = true) : ∃ app, EmitOf s.codec app := by
  simp only [State.codecLegal, Bool.or_eq_true, beq_iff_eq] at h
  rcases h with h | h <;> rw [h]
  · exact ⟨_, .lzss⟩
  · exact ⟨_, .lh5⟩

section
variable {s t u : State}

theorem State.MovesTo.refl (s : State) : s.MovesTo s := ⟨rfl, le_rfl, le_rfl⟩

theorem State.MovesTo.faulted (h : s.MovesTo t) (cause : Cause) : s.MovesTo (t.faulted cause) := by
  obtain ⟨h, hbit, hin⟩ := h
  exact ⟨congrArg (State.faulted · cause) h, hbit, hin⟩

theorem State.HeaderTo.movesTo (h : s.HeaderTo t) : s.MovesTo t := by
  obtain ⟨n, k, a, b, c, rfl, hn⟩ := h
  exact ⟨rfl, hn, le_rfl⟩

theorem State.SymbolTo.movesTo (h : s.SymbolTo t) : s.MovesTo t := by
  obtain ⟨n, f, rfl, hn, -⟩ := h
  exact ⟨rfl, hn, le_rfl⟩

theorem State.TokenTo.movesTo (h : s.TokenTo t) : s.MovesTo t := by
  obtain ⟨p, c, l, rfl, hp, -⟩ := h
  exact ⟨rfl, le_rfl, hp⟩

theorem State.endBlock_movesTo (s : State) : s.MovesTo s.endBlock := by
  rw [State.endBlock_eq]
  exact ⟨rfl, le_rfl, le_rfl⟩

/-- What a raise leaves, when the operation has emitted nothing. -/
theorem RaisedFrom.movesTo {F : State → Prop} {code : BitVec 3} (h : RaisedFrom F code t)
    (hF : ∀ u, F u → s.MovesTo u) :
    s.MovesTo t := by
  obtain ⟨u, cause, hu, -, rfl⟩ := h
  exact (hF u hu).faulted cause

/-- How an LZSS operation ends, as a run of EMITs between two moves. -/
theorem State.TokenEnds.exists_emits (h : s.TokenEnds t) :
    ∃ u q, s.MovesTo u ∧ u.Emits State.ringAppended q ∧ q.MovesTo t := by
  cases h with
  | truncated place h _ _ => exact ⟨_, _, h.movesTo, .refl _, (State.MovesTo.refl _).faulted _⟩
  | finished h _ _ _ => exact ⟨_, _, h.movesTo, .refl _, rfl, le_rfl, le_rfl⟩
  | unwritten cell h hq _ => exact ⟨_, _, h.movesTo, hq, (State.MovesTo.refl _).faulted _⟩

/-- A step of a running job moves its cursors on, emits, and moves on. -/
theorem State.BlockTo.exists_emits (h : s.BlockTo t) (hrun : s.state = .run) :
    ∃ app u q, EmitOf s.codec app ∧ s.MovesTo u ∧ u.Emits app q ∧ q.MovesTo t := by
  cases h with
  | rests h => exact absurd hrun h
  | finishes _ hcodec _ =>
    obtain ⟨app, happ⟩ := exists_emitOf hcodec
    exact ⟨app, s, s, happ, .refl s, .refl s, rfl, le_rfl, le_rfl⟩
  | header hs _ h =>
    obtain ⟨u, hu, -, -, rfl⟩ := h
    exact ⟨_, u, u, hs.emitOf_lh5, hu.movesTo, .refl u, rfl, le_rfl, le_rfl⟩
  | headerRaises hs _ h =>
    exact ⟨_, s, s, hs.emitOf_lh5, .refl s, .refl s, h.movesTo fun _ hu => hu.movesTo⟩
  | symbol hs _ hu hq _ => exact ⟨_, _, _, hs.emitOf_lh5, hu.movesTo, hq, State.endBlock_movesTo _⟩
  | symbolRaises hs _ h =>
    exact ⟨_, s, s, hs.emitOf_lh5, .refl s, .refl s, h.movesTo fun _ hu => hu.movesTo⟩
  | control hs _ h _ => exact ⟨_, _, _, hs.emitOf_lzss, h.movesTo, .refl _, .refl _⟩
  | token hs _ hu hq _ => exact ⟨_, _, _, hs.emitOf_lzss, hu.movesTo, hq, .refl _⟩
  | tokenEnds hs h =>
    obtain ⟨u, q, hu, hq, ht⟩ := h.exists_emits
    exact ⟨_, u, q, hs.emitOf_lzss, hu, hq, ht⟩

end

/-! ## Commands and host accesses -/

/-- All that a command can do (R313 to R317). -/
inductive State.CommandTo (s : State) : HostCommand → State → Prop
  | resets : CommandTo s .reset (resetBlock s)
  | startIgnored (hrun : s.state = .run) : CommandTo s .start s
  | starts (hrun : s.state ≠ .run) (hcodec : s.codecLegal = true) :
      CommandTo s .start { s.jobStart with state := .run }
  | startRaises (hrun : s.state ≠ .run) (hcodec : s.codecLegal = false) :
      CommandTo s .start (s.jobStart.faulted (.unsupportedCompression s.codec))
  | aborts (hrun : s.state = .run) :
      CommandTo s .abort
        { s with state := .idle, faultCode := 0#3, faultSub := 0#4, faultInfo := 0#32, outMem := [] }
  | abortIgnored (hrun : s.state ≠ .run) : CommandTo s .abort s

/-- All that a host access can do to the state: in RUN it changes only the model's own fields (R318). -/
inductive State.AccessTo (s : State) : State → Prop
  | reads (v f : Nat) : AccessTo s { s with hostData := v, freeIx := f }
  | writesRegisters (hrun : s.state ≠ .run) (c : BitVec 3) (n e : Word) :
      AccessTo s { s with codec := c, inLen := n, expandedSize := e }
  | writesIn (hrun : s.state ≠ .run) (a : Nat) (v : Byte) : AccessTo s (s.memWrite .inn a v)

section
variable {s t : State}

theorem startJob_of_run (hrun : s.state = .run) : startJob s = .ok () s := if_pos hrun

theorem startJob_of_codecLegal (hrun : s.state ≠ .run) (hcodec : s.codecLegal = true) :
    startJob s = .ok () { s.jobStart with state := .run } := by
  have hjob : s.jobStart.codecLegal = true := hcodec
  rw [startJob, if_neg hrun]
  exact if_pos hjob

theorem startJob_of_codecReserved (hrun : s.state ≠ .run) (hcodec : s.codecLegal = false) :
    startJob s = raise (.unsupportedCompression s.codec) s.jobStart := by
  have hjob : ¬ s.jobStart.codecLegal = true := Bool.eq_false_iff.mp hcodec
  rw [startJob, if_neg hrun]
  exact if_neg hjob

/-- A command always answers a next state. -/
theorem exists_commandTo (c : HostCommand) (s : State) : ∃ t, exec c.instr s = .next t ∧ s.CommandTo c t := by
  cases c with
  | reset => exact ⟨_, rfl, .resets⟩
  | start =>
    have hexec : exec HostCommand.start.instr s = (startJob s).toOutcome := rfl
    rw [hexec]
    by_cases hrun : s.state = .run
    · exact ⟨s, by rw [startJob_of_run hrun, Res.toOutcome], .startIgnored hrun⟩
    cases hcodec : s.codecLegal with
    | true => exact ⟨_, by rw [startJob_of_codecLegal hrun hcodec, Res.toOutcome], .starts hrun hcodec⟩
    | false => exact ⟨_, by rw [startJob_of_codecReserved hrun hcodec]; rfl, .startRaises hrun hcodec⟩
  | abort =>
    have hexec : exec HostCommand.abort.instr s = .next (abortJob s) := rfl
    rw [hexec]
    by_cases hrun : s.state = .run
    · exact ⟨_, by rw [abortJob, if_pos hrun], .aborts hrun⟩
    · exact ⟨s, by rw [abortJob, if_neg hrun], .abortIgnored hrun⟩

theorem exec_command_to {c : HostCommand} (ht : exec c.instr s = .next t) : s.CommandTo c t := by
  obtain ⟨t', ht', h⟩ := exists_commandTo c s
  obtain rfl := Host.Outcome.next.inj (ht'.symm.trans ht)
  exact h

theorem hostWriteRegister_to {c : BitVec 3} {n e : Word}
    (ht : hostWriteRegister s { s with codec := c, inLen := n, expandedSize := e } = .next t) : s.AccessTo t := by
  unfold hostWriteRegister at ht
  split_ifs at ht with hrun
  · exact Host.Outcome.next.inj ht ▸ .reads s.hostData s.freeIx
  · exact Host.Outcome.next.inj ht ▸ .writesRegisters hrun c n e

theorem hostAccess_to {a : HostAction} (ht : hostAccess a s = .next t) : s.AccessTo t := by
  cases a with
  | wait => exact Host.Outcome.next.inj ht ▸ .reads s.hostData s.freeIx
  | command c => exact Host.Outcome.next.inj ht ▸ .reads s.hostData s.freeIx
  | writeCodec v => exact hostWriteRegister_to (c := v) (n := s.inLen) (e := s.expandedSize) ht
  | writeInLen v => exact hostWriteRegister_to (c := s.codec) (n := v) (e := s.expandedSize) ht
  | writeExpandedSize v => exact hostWriteRegister_to (c := s.codec) (n := s.inLen) (e := v) ht
  | writeIn a v =>
    unfold hostAccess at ht
    dsimp only at ht
    split_ifs at ht with hrun
    exact Host.Outcome.next.inj ht ▸ .writesIn hrun a.toNat v
  | writeOut a v => cases ht
  | read o =>
    unfold hostAccess hostRead at ht
    dsimp only at ht
    split_ifs at ht
    split at ht
    · exact Host.Outcome.next.inj ht ▸ .reads _ s.freeIx
    · exact Host.Outcome.next.inj ht ▸ .reads _ (s.freeIx + 1)

end

/-! ## One step -/

/-- All that one step can do, by the host's next action. -/
inductive State.StepTo (s : State) : State → Prop
  | block {t : State} (hturn : s.blockTurn) (h : s.blockStart.BlockTo t) : StepTo s t
  | command {t : State} (c : HostCommand) (hhead : s.host.head? = some (.command c)) (h : s.blockStart.CommandTo c t) :
      StepTo s t
  | access {t : State} (hturn : ¬ s.blockTurn) (hhead : ∀ c, s.host.head? ≠ some (.command c))
      (h : s.blockStart.AccessTo t) : StepTo s t

section
variable {s t : State}

theorem State.blockStart_of_cons {a : HostAction} {rest : List HostAction} (h : s.host = a :: rest) :
    ({ s with host := rest } : State) = s.blockStart := by
  rw [State.blockStart, h, List.tail_cons]

theorem step_to (ht : step s = .next t) : s.StepTo t := by
  rcases step_cases s with ⟨hhost, -⟩ | ⟨rest, hhost, -⟩ | ⟨c, rest, hhost, e⟩ | ⟨a, rest, hhost, hwait, hcommand, e⟩
  · have hturn : s.blockTurn := .inl hhost
    exact .block hturn (blockStep_to ((step_of_blockTurn hturn).symm.trans ht))
  · have hturn : s.blockTurn := .inr (by rw [hhost, List.head?_cons])
    exact .block hturn (blockStep_to ((step_of_blockTurn hturn).symm.trans ht))
  · rw [e, State.blockStart_of_cons hhost] at ht
    exact .command c (by rw [hhost, List.head?_cons]) (exec_command_to ht)
  · rw [e, State.blockStart_of_cons hhost] at ht
    refine .access ?_ (fun c => ?_) (hostAccess_to ht)
    · simp [State.blockTurn, hhost, hwait]
    · simp [hhost, hcommand]

/-- A predicate that each of the three kinds of step keeps. -/
theorem State.StepTo.keeps {P : State → Prop} (h : s.StepTo t) (hs : P s.blockStart)
    (hblock : ∀ s t : State, P s → s.BlockTo t → P t) (hcommand : ∀ (s t : State) c, P s → s.CommandTo c t → P t)
    (haccess : ∀ s t : State, P s → s.AccessTo t → P t) : P t := by
  cases h with
  | block _ h => exact hblock _ _ hs h
  | command c _ h => exact hcommand _ _ c hs h
  | access _ _ h => exact haccess _ _ hs h

end

end Sys2Proof.Machine
end

section
/-! The invariants of every step, each of them kept by a step of the block, a command and a host access
(State.StepTo.keeps). -/

namespace Sys2Proof.Machine

section
variable {s t : State}

/-! ## What moves and EMITs keep -/

theorem State.MovesTo.memRead (h : s.MovesTo t) (space : Space) (a : Nat) : t.memRead space a = s.memRead space a := by
  obtain ⟨h, -⟩ := h
  rw [h]
  cases space <;> rfl

theorem State.MovesTo.outCount (h : s.MovesTo t) : t.outCount = s.outCount := by
  obtain ⟨h, -⟩ := h
  rw [h]

theorem State.MovesTo.expandedSize (h : s.MovesTo t) : t.expandedSize = s.expandedSize := by
  obtain ⟨h, -⟩ := h
  rw [h]

theorem State.BlockTo.eq_of_not_run (h : s.BlockTo t) (hrun : s.state ≠ .run) : t = s := by
  cases h with
  | rests => rfl
  | finishes h => exact absurd h hrun
  | header hs => exact absurd hs.run hrun
  | headerRaises hs => exact absurd hs.run hrun
  | symbol hs => exact absurd hs.run hrun
  | symbolRaises hs => exact absurd hs.run hrun
  | control hs => exact absurd hs.run hrun
  | token hs => exact absurd hs.run hrun
  | tokenEnds hs => exact absurd hs.run hrun

/-- A predicate that moves and EMITs keep. -/
theorem State.BlockTo.keeps {P : State → Prop} (h : s.BlockTo t) (hs : P s)
    (hmove : ∀ s t : State, P s → s.MovesTo t → P t)
    (hemit : ∀ {codec app} (s : State) (v : Byte), EmitOf codec app → P s → P (app s v)) : P t := by
  by_cases hrun : s.state = .run
  · obtain ⟨app, u, q, happ, hu, hq, ht⟩ := h.exists_emits hrun
    exact hmove _ _ (hq.keeps (hmove _ _ hs hu) fun s v _ => hemit s v happ) ht
  · rwa [h.eq_of_not_run hrun]

/-! ## The byte spaces (20_memory.md) -/

theorem State.BlockTo.memoriesCanonical (h : s.BlockTo t) (hs : s.memoriesCanonical) : t.memoriesCanonical := by
  refine h.keeps hs (fun s t hs ht => ?_) fun s v happ hs => ?_
  · obtain ⟨h, -⟩ := ht
    rw [h]
    exact hs
  · cases happ with
    | lh5 => exact State.memoriesCanonical_memWrite hs .out _ v
    | lzss => exact State.memoriesCanonical_ringAppended hs v

theorem State.memoriesCanonical_jobStart (hs : s.memoriesCanonical) : s.jobStart.memoriesCanonical := by
  intro space
  cases space with
  | inn => exact hs .inn
  | out => rfl
  | ring => rfl

theorem State.CommandTo.memoriesCanonical {c : HostCommand} (h : s.CommandTo c t) (hs : s.memoriesCanonical) :
    t.memoriesCanonical := by
  have hstart := State.memoriesCanonical_jobStart hs
  cases h with
  | resets =>
    intro space
    cases space with
    | inn => exact hs .inn
    | out => rfl
    | ring => rfl
  | startIgnored _ => exact hs
  | starts _ _ => exact hstart
  | startRaises _ _ => exact hstart
  | aborts _ =>
    intro space
    cases space with
    | inn => exact hs .inn
    | out => rfl
    | ring => exact hs .ring
  | abortIgnored _ => exact hs

theorem State.AccessTo.memoriesCanonical (h : s.AccessTo t) (hs : s.memoriesCanonical) : t.memoriesCanonical := by
  cases h with
  | reads v f => exact hs
  | writesRegisters _ c n e => exact hs
  | writesIn _ a v => exact State.memoriesCanonical_memWrite hs .inn a v

/-- Settles O47: every write to a byte space keeps its form, and a space emptied has it. -/
theorem stepKeepsMemoriesCanonical : Obligations.StepKeepsMemoriesCanonical := fun _ _ hs ht =>
  (step_to ht).keeps (P := State.memoriesCanonical) hs (fun _ _ hs h => h.memoriesCanonical hs)
    (fun _ _ _ hs h => h.memoriesCanonical hs) fun _ _ hs h => h.memoriesCanonical hs

/-- A byte stored is the only cell listed anew. -/
theorem Memory.mem_store {blank : Option Byte} {a : Nat} {v : Byte} {m : Memory} {p : Host.Cell → Prop}
    (hm : ∀ cell ∈ m, p cell) (hp : p (a, v)) : ∀ cell ∈ Memory.store blank a v m, p cell := by
  classical
  have hall : m.all (fun cell => decide (p cell)) = true := by simpa using hm
  have hstore : (Memory.store blank a v m).all (fun cell => decide (p cell)) = true := by
    unfold Memory.store
    split_ifs
    · exact Memory.all_erase _ hall a
    · exact Memory.all_insert _ hall (decide_eq_true hp)
  simpa using hstore

theorem State.BlockTo.ringInBounds (h : s.BlockTo t) (hs : s.ringInBounds) : t.ringInBounds := by
  refine h.keeps hs (fun s t hs ht => ?_) fun s v happ hs => ?_
  · obtain ⟨h, -⟩ := ht
    rw [h]
    exact hs
  · cases happ with
    | lh5 => exact hs
    | lzss => exact Memory.mem_store hs s.ringW.isLt

theorem State.CommandTo.ringInBounds {c : HostCommand} (h : s.CommandTo c t) (hs : s.ringInBounds) :
    t.ringInBounds := by
  cases h with
  | resets => exact List.forall_mem_nil _
  | startIgnored _ => exact hs
  | starts _ _ => exact List.forall_mem_nil _
  | startRaises _ _ => exact List.forall_mem_nil _
  | aborts _ => exact hs
  | abortIgnored _ => exact hs

theorem State.AccessTo.ringInBounds (h : s.AccessTo t) (hs : s.ringInBounds) : t.ringInBounds := by
  cases h with
  | reads v f => exact hs
  | writesRegisters _ c n e => exact hs
  | writesIn _ a v => exact hs

/-- Settles O52: RING_W, which has 12 bits, is the only address a ring cell is written at. -/
theorem stepKeepsRingInBounds : Obligations.StepKeepsRingInBounds := fun _ _ hs ht =>
  (step_to ht).keeps (P := State.ringInBounds) hs (fun _ _ hs h => h.ringInBounds hs)
    (fun _ _ _ hs h => h.ringInBounds hs) fun _ _ hs h => h.ringInBounds hs

/-! ## OUT below OUT_COUNT (R61, R240) -/

theorem State.BlockTo.outWritten (h : s.BlockTo t) (hs : s.outWritten) : t.outWritten := by
  by_cases hrun : s.state = .run
  · obtain ⟨app, u, q, happ, hu, hq, ht⟩ := h.exists_emits hrun
    intro _ a
    rw [ht.memRead, ht.outCount]
    refine hq.written happ.appends (fun a => ?_) a
    rw [hu.memRead, hu.outCount]
    exact hs (.inl hrun) a
  · rwa [h.eq_of_not_run hrun]

theorem State.CommandTo.outWritten {c : HostCommand} (h : s.CommandTo c t) (hs : s.outWritten) : t.outWritten := by
  have hempty (a : Nat) : (Memory.load none [] a).isSome = true ↔ a < (0#32).toNat := by
    simp [Memory.load]
  cases h with
  | resets => exact fun _ => hempty
  | startIgnored _ => exact hs
  | starts _ _ => exact fun _ => hempty
  | startRaises _ _ => exact fun _ => hempty
  | aborts _ => rintro (h | h) <;> cases h
  | abortIgnored _ => exact hs

theorem State.AccessTo.outWritten (h : s.AccessTo t) (hs : s.outWritten) : t.outWritten := by
  cases h with
  | reads v f => exact hs
  | writesRegisters _ c n e => exact hs
  | writesIn _ a v => exact hs

/-- Settles O51: an EMIT gives the cell at OUT_COUNT a value and moves OUT_COUNT past it; CMD.START empties both. -/
theorem stepKeepsOutWritten : Obligations.StepKeepsOutWritten := fun _ _ hs ht =>
  (step_to ht).keeps (P := State.outWritten) hs (fun _ _ hs h => h.outWritten hs)
    (fun _ _ _ hs h => h.outWritten hs) fun _ _ hs h => h.outWritten hs

/-! ## RING as the last 4096 bytes of OUT (R280, R281) -/

/-- RING_W is where the next output byte goes, and RING holds the last min(OUT_COUNT, 4096) output bytes. -/
def State.ringHoldsOutput (s : State) : Prop :=
  s.ringW.toNat = ringCellOf s.outCount.toNat ∧
    ∀ j : Nat, j < s.outCount.toNat → s.outCount.toNat ≤ j + 4096 → s.memRead .ring (ringCellOf j) = s.memRead .out j

theorem State.ringHoldsOutput_of_ringMirrors (h : s.ringMirrors) (hrun : s.state = .run)
    (hcodec : s.codec = Config.codecLzss) : s.ringHoldsOutput :=
  h hrun hcodec

/-- Two output bytes of which less than 4096 lie between stand in different cells. -/
theorem ringCellOf_ne {j n : Nat} (hlt : j < n) (hnear : n < j + 4096) : ringCellOf j ≠ ringCellOf n := by
  unfold ringCellOf
  omega

theorem State.ringHoldsOutput_ringAppended (hcanon : s.memoriesCanonical) (h : s.ringHoldsOutput)
    (hroom : s.outCount < s.expandedSize) (v : Byte) : (s.ringAppended v).ringHoldsOutput := by
  obtain ⟨hringW, hcells⟩ := h
  have hnext := State.ringAppended_outCount_toNat v hroom
  refine ⟨?_, fun j hj hnear => ?_⟩
  · rw [State.ringAppended_ringW_toNat, hnext, hringW, ringCellOf, ringCellOf]
    omega
  · rw [hnext] at hj hnear
    rw [State.memRead_ring_ringAppended hcanon, State.memRead_out_ringAppended, hringW]
    obtain hlt | rfl := Nat.lt_succ_iff_lt_or_eq.mp hj
    · rw [if_neg (ringCellOf_ne hlt (by omega)), if_neg hlt.ne]
      exact hcells j hlt (by omega)
    · rw [if_pos rfl, if_pos rfl]

theorem State.MovesTo.ringHoldsOutput (h : s.MovesTo t) (hs : s.ringHoldsOutput) : t.ringHoldsOutput := by
  obtain ⟨h, -⟩ := h
  rw [h]
  exact hs

theorem EmitOf.eq_ringAppended {codec : BitVec 3} {app : State → Byte → State} (h : EmitOf codec app)
    (hcodec : codec = Config.codecLzss) : app = State.ringAppended := by
  cases h with
  | lh5 => cases hcodec
  | lzss => rfl

theorem State.MovesTo.memoriesCanonical (h : s.MovesTo t) (hs : s.memoriesCanonical) : t.memoriesCanonical := by
  obtain ⟨h, -⟩ := h
  rw [h]
  exact hs

theorem State.BlockTo.codec (h : s.BlockTo t) : t.codec = s.codec := by
  refine h.keeps (P := fun u => u.codec = s.codec) rfl (fun u w hu hw => ?_) fun u v happ hu => ?_
  · obtain ⟨hw, -⟩ := hw
    rw [hw]
    exact hu
  · cases happ with
    | lh5 => exact hu
    | lzss => exact hu

theorem State.BlockTo.ringMirrors (h : s.BlockTo t) (hcanon : s.memoriesCanonical) (hs : s.ringMirrors) :
    t.ringMirrors := by
  by_cases hrun : s.state = .run
  · intro _ hcodec
    rw [h.codec] at hcodec
    obtain ⟨app, u, q, happ, hu, hq, ht⟩ := h.exists_emits hrun
    obtain rfl := happ.eq_ringAppended hcodec
    have hstart : u.memoriesCanonical ∧ u.ringHoldsOutput :=
      ⟨hu.memoriesCanonical hcanon, hu.ringHoldsOutput (State.ringHoldsOutput_of_ringMirrors hs hrun hcodec)⟩
    obtain ⟨-, hholds⟩ := hq.keeps (P := fun s => s.memoriesCanonical ∧ s.ringHoldsOutput) hstart
      fun s v hroom ⟨hcanon, hs⟩ =>
        ⟨State.memoriesCanonical_ringAppended hcanon v, State.ringHoldsOutput_ringAppended hcanon hs hroom v⟩
    exact ht.ringHoldsOutput hholds
  · rwa [h.eq_of_not_run hrun]

theorem State.CommandTo.ringMirrors {c : HostCommand} (h : s.CommandTo c t) (hs : s.ringMirrors) : t.ringMirrors := by
  cases h with
  | resets => nofun
  | startIgnored _ => exact hs
  | starts _ _ => exact fun _ _ => ⟨rfl, fun j hj => absurd hj (Nat.not_lt_zero j)⟩
  | startRaises _ _ => nofun
  | aborts _ => nofun
  | abortIgnored _ => exact hs

theorem State.AccessTo.ringMirrors (h : s.AccessTo t) (hs : s.ringMirrors) : t.ringMirrors := by
  cases h with
  | reads v f => exact hs
  | writesRegisters hrun c n e => exact fun h => absurd h hrun
  | writesIn hrun a v => exact fun h => absurd h hrun

/-- Settles O53: the EMIT of LZSS writes the byte to OUT and to the ring cell 4096 bytes on from the one it replaces. -/
theorem stepKeepsRingMirrorsOutput : Obligations.StepKeepsRingMirrorsOutput := by
  intro s t hcanon hs ht
  cases step_to ht with
  | block _ h => exact h.ringMirrors hcanon hs
  | command c _ h => exact h.ringMirrors hs
  | access _ _ h => exact h.ringMirrors hs

/-! ## The fault registers (R341) -/

theorem RaisedFrom.state {F : State → Prop} {code : BitVec 3} (h : RaisedFrom F code t) : t.state = .fault := by
  obtain ⟨u, cause, -, -, rfl⟩ := h
  rfl

theorem RaisedFrom.faultCode {F : State → Prop} {code : BitVec 3} (h : RaisedFrom F code t) : t.faultCode = code := by
  obtain ⟨u, cause, -, hcode, rfl⟩ := h
  exact hcode

/-- The fault registers are those of s. -/
def State.sameFault (s t : State) : Prop :=
  t.faultCode = s.faultCode ∧ t.faultSub = s.faultSub ∧ t.faultInfo = s.faultInfo

theorem State.TokenTo.sameFault (h : s.TokenTo t) : s.sameFault t := by
  obtain ⟨p, c, l, rfl, -⟩ := h
  exact ⟨rfl, rfl, rfl⟩

theorem State.TokenTo.state (h : s.TokenTo t) : t.state = s.state := by
  obtain ⟨p, c, l, rfl, -⟩ := h
  rfl

/-- An LZSS operation that does not go on ends in FAULT, or in DONE with the fault registers as they were. -/
theorem State.TokenEnds.fault_cases (h : s.TokenEnds t) :
    (t.state = .done ∧ s.sameFault t) ∨ (t.state = .fault ∧ (t.faultCode = 3#3 ∨ t.faultCode = 6#3)) := by
  cases h with
  | truncated place h _ _ => exact .inr ⟨rfl, .inl rfl⟩
  | finished h _ _ _ => exact .inl ⟨rfl, h.sameFault⟩
  | unwritten cell h hq _ => exact .inr ⟨rfl, .inr rfl⟩

/-- A step of a running job that does not end in FAULT leaves the fault registers as they were. -/
theorem State.BlockTo.fault_cases (h : s.BlockTo t) (hrun : s.state = .run) :
    (t.state ≠ .fault ∧ s.sameFault t) ∨
      (t.state = .fault ∧ (t.faultCode = 1#3 ∨ t.faultCode = 2#3 ∨ t.faultCode = 3#3 ∨ t.faultCode = 6#3)) := by
  have hgoes {u : State} (hu : u.state = s.state) : u.state ≠ .fault := by
    rw [hu, hrun]
    nofun
  cases h with
  | rests h => exact absurd hrun h
  | finishes _ _ _ => exact .inl ⟨nofun, rfl, rfl, rfl⟩
  | header _ _ h =>
    obtain ⟨u, ⟨n, k, a, b, c, rfl, -⟩, -, -, rfl⟩ := h
    exact .inl ⟨hgoes rfl, rfl, rfl, rfl⟩
  | headerRaises _ _ h => exact .inr ⟨h.state, .inl h.faultCode⟩
  | symbol _ _ hu hq _ =>
    obtain ⟨n, f, rfl, -⟩ := hu
    rw [State.endBlock_eq, hq.appended_frame]
    exact .inl ⟨hgoes rfl, rfl, rfl, rfl⟩
  | symbolRaises _ _ h => exact .inr ⟨h.state, .inr (.inl h.faultCode)⟩
  | control _ _ h _ => exact .inl ⟨hgoes h.state, h.sameFault⟩
  | token _ _ hu hq _ =>
    rw [hq.ringAppended_frame]
    exact .inl ⟨hgoes hu.state, hu.sameFault⟩
  | tokenEnds _ h =>
    rcases h.fault_cases with ⟨hdone, hsame⟩ | ⟨hfault, h3 | h6⟩
    · exact .inl ⟨hdone ▸ nofun, hsame⟩
    · exact .inr ⟨hfault, .inr (.inr (.inl h3))⟩
    · exact .inr ⟨hfault, .inr (.inr (.inr h6))⟩

theorem State.BlockTo.faultRegistersLegal (h : s.BlockTo t) (hs : s.faultRegistersLegal) : t.faultRegistersLegal := by
  by_cases hrun : s.state = .run
  · obtain ⟨hzero, -⟩ := hs
    obtain ⟨hcode0, hsub0, hinfo0⟩ := hzero (hrun ▸ nofun)
    rcases h.fault_cases hrun with ⟨hgoes, hcode, hsub, hinfo⟩ | ⟨hfault, hcode⟩
    · exact ⟨fun _ => ⟨hcode.trans hcode0, hsub.trans hsub0, hinfo.trans hinfo0⟩, fun h => absurd h hgoes⟩
    · refine ⟨fun h => absurd hfault h, fun _ => ?_⟩
      rcases hcode with h | h | h | h <;> rw [h] <;> decide
  · rwa [h.eq_of_not_run hrun]

theorem State.CommandTo.faultRegistersLegal {c : HostCommand} (h : s.CommandTo c t) (hs : s.faultRegistersLegal) :
    t.faultRegistersLegal := by
  cases h with
  | resets => exact ⟨fun _ => ⟨rfl, rfl, rfl⟩, nofun⟩
  | startIgnored _ => exact hs
  | starts _ _ => exact ⟨fun _ => ⟨rfl, rfl, rfl⟩, nofun⟩
  | startRaises _ _ => exact ⟨fun h => absurd rfl h, fun _ => ⟨nofun, nofun, nofun⟩⟩
  | aborts _ => exact ⟨fun _ => ⟨rfl, rfl, rfl⟩, nofun⟩
  | abortIgnored _ => exact hs

theorem State.AccessTo.faultRegistersLegal (h : s.AccessTo t) (hs : s.faultRegistersLegal) : t.faultRegistersLegal := by
  cases h with
  | reads v f => exact hs
  | writesRegisters _ c n e => exact hs
  | writesIn _ a v => exact hs

/-- Settles O50: only a raise writes the fault registers in RUN, and it sets STATE = FAULT with its code. -/
theorem stepKeepsFaultRegistersLegal : Obligations.StepKeepsFaultRegistersLegal := fun _ _ hs ht =>
  (step_to ht).keeps (P := State.faultRegistersLegal) hs (fun _ _ hs h => h.faultRegistersLegal hs)
    (fun _ _ _ hs h => h.faultRegistersLegal hs) fun _ _ hs h => h.faultRegistersLegal hs

/-! ## The legal values of a running job (R22, R26, R35) -/

theorem State.TokenEnds.state_ne_run (h : s.TokenEnds t) : t.state ≠ .run := by
  rcases h.fault_cases with ⟨h, -⟩ | ⟨h, -⟩ <;> rw [h] <;> nofun

theorem RaisedFrom.state_ne_run {F : State → Prop} {code : BitVec 3} (h : RaisedFrom F code t) : t.state ≠ .run := by
  rw [h.state]
  nofun

theorem State.BlockTo.runLegal (h : s.BlockTo t) (hs : s.runLegal) : t.runLegal := by
  by_cases hrun : s.state = .run
  · obtain ⟨hcodec, hout, hin, hleft, hcount⟩ := hs hrun
    intro hrun'
    cases h with
    | rests h => exact absurd hrun h
    | finishes _ _ _ => cases hrun'
    | header _ _ h =>
      obtain ⟨u, ⟨n, k, a, b, c, rfl, -⟩, -, -, rfl⟩ := h
      exact ⟨hcodec, hout, hin, hleft, nofun⟩
    | headerRaises _ _ h => exact absurd hrun' h.state_ne_run
    | symbol _ hphase hu hq _ =>
      obtain ⟨n, f, rfl, -⟩ := hu
      have hle := hq.outCount_le_expandedSize appends_appended hout
      rw [State.endBlock_eq]
      rw [hq.appended_frame] at hle ⊢
      refine ⟨hcodec, hle, hin, hleft, fun hheader => ?_⟩
      by_contra hne
      exact nomatch hphase.symm.trans ((if_neg hne).symm.trans hheader)
    | symbolRaises _ _ h => exact absurd hrun' h.state_ne_run
    | control _ _ h _ =>
      obtain ⟨p, c, l, rfl, -, hp, hl⟩ := h
      exact ⟨hcodec, hout, hp hin, hl hleft, hcount⟩
    | token _ _ hu hq _ =>
      obtain ⟨p, c, l, rfl, -, hp, hl⟩ := hu
      have hle := hq.outCount_le_expandedSize appends_ringAppended hout
      rw [hq.ringAppended_frame] at hle ⊢
      exact ⟨hcodec, hle, hp hin, hl hleft, hcount⟩
    | tokenEnds _ h => exact absurd hrun' h.state_ne_run
  · rwa [h.eq_of_not_run hrun]

theorem State.CommandTo.runLegal {c : HostCommand} (h : s.CommandTo c t) (hs : s.runLegal) : t.runLegal := by
  cases h with
  | resets => nofun
  | startIgnored _ => exact hs
  | starts _ hcodec =>
    exact fun _ => ⟨hcodec, Nat.zero_le _, Nat.zero_le _, Nat.zero_le _, fun _ => rfl⟩
  | startRaises _ _ => nofun
  | aborts _ => nofun
  | abortIgnored _ => exact hs

theorem State.AccessTo.runLegal (h : s.AccessTo t) (hs : s.runLegal) : t.runLegal := by
  cases h with
  | reads v f => exact hs
  | writesRegisters hrun c n e => exact fun h => absurd h hrun
  | writesIn hrun a v => exact fun h => absurd h hrun

/-- Settles O49: EMIT stops at EXPANDED_SIZE, FETCH at IN_LEN, and LH5.SYM goes back to a header only at count 0. -/
theorem stepKeepsRunLegal : Obligations.StepKeepsRunLegal := fun _ _ hs ht =>
  (step_to ht).keeps (P := State.runLegal) hs (fun _ _ hs h => h.runLegal hs)
    (fun _ _ _ hs h => h.runLegal hs) fun _ _ hs h => h.runLegal hs

/-! ## Tables C and P in Streaming (R32, R162, R395) -/

theorem State.BlockTo.tablesDecode (h : s.BlockTo t) (hs : s.tablesDecode) : t.tablesDecode := by
  by_cases hrun : s.state = .run
  · intro hrun' hphase'
    cases h with
    | rests h => exact absurd hrun h
    | finishes _ _ _ => cases hrun'
    | header _ _ h =>
      obtain ⟨u, -, hC, hP, rfl⟩ := h
      exact ⟨hC, hP⟩
    | headerRaises _ _ h => exact absurd hrun' h.state_ne_run
    | symbol _ hphase hu hq _ =>
      obtain ⟨n, f, rfl, -⟩ := hu
      rw [State.endBlock_eq, hq.appended_frame]
      exact hs hrun hphase
    | symbolRaises _ _ h => exact absurd hrun' h.state_ne_run
    | control _ _ h _ =>
      obtain ⟨p, c, l, rfl, -⟩ := h
      exact hs hrun hphase'
    | token _ _ hu hq _ =>
      obtain ⟨p, c, l, rfl, -⟩ := hu
      rw [hq.ringAppended_frame] at hphase' ⊢
      exact hs hrun hphase'
    | tokenEnds _ h => exact absurd hrun' h.state_ne_run
  · rwa [h.eq_of_not_run hrun]

theorem State.CommandTo.tablesDecode {c : HostCommand} (h : s.CommandTo c t) (hs : s.tablesDecode) :
    t.tablesDecode := by
  cases h with
  | resets => nofun
  | startIgnored _ => exact hs
  | starts _ _ => nofun
  | startRaises _ _ => nofun
  | aborts _ => nofun
  | abortIgnored _ => exact hs

theorem State.AccessTo.tablesDecode (h : s.AccessTo t) (hs : s.tablesDecode) : t.tablesDecode := by
  cases h with
  | reads v f => exact hs
  | writesRegisters hrun c n e => exact fun h => absurd h hrun
  | writesIn hrun a v => exact fun h => absurd h hrun

/-- Settles O54: a header that goes on to Streaming has just made both tables, and no symbol writes one. -/
theorem stepKeepsTablesDecode : Obligations.StepKeepsTablesDecode := fun _ _ hs ht =>
  (step_to ht).keeps (P := State.tablesDecode) hs (fun _ _ hs h => h.tablesDecode hs)
    (fun _ _ _ hs h => h.tablesDecode hs) fun _ _ hs h => h.tablesDecode hs

end

/-! ## The state after reset -/

theorem State.tablesShaped_reset : State.reset.tablesShaped := by
  intro x
  rw [State.unit_reset]
  exact TableUnit.shaped_reset x

/-- Settles O55: STATE is IDLE after reset, which leaves the memories, the table units and the fault registers to see.
-/
theorem resetSatisfiesInvariants : Obligations.ResetSatisfiesInvariants := by
  refine ⟨State.reset_memories_wf, State.tablesShaped_reset, nofun, ⟨fun _ => ⟨rfl, rfl, rfl⟩, nofun⟩, ?_,
    List.forall_mem_nil _, nofun, nofun⟩
  rintro (h | h) <;> cases h

end Sys2Proof.Machine
end

section
/-! Rules about a whole step (43_lh5_streaming.md R251, 44_lzss.md R291, 45_host_commands.md R311, R315, R320):
progress, cursors that only advance, the job's inputs, and how a job comes to DONE. -/

namespace Sys2Proof.Machine

section
variable {s t : State}

/-! ## Progress (R251, R291) -/

/-- A run of EMITs that emits a byte starts below EXPANDED_SIZE. -/
theorem State.Emits.outCount_lt_expandedSize {app : State → Byte → State} (h : s.Emits app t)
    (hgrows : s.outCount.toNat < t.outCount.toNat) : s.outCount.toNat < s.expandedSize.toNat := by
  cases h with
  | refl => exact absurd hgrows (lt_irrefl _)
  | append v hroom _ => exact hroom

/-- The part of the measure beside the output: one for a header or a control byte that comes first. -/
def State.readsFirst (s : State) : Nat :=
  if s.codec = Config.codecLh5 then (if s.phase = .blockHeader then 1 else 0) else if s.ctrlLeft = 0#4 then 1 else 0

theorem State.remaining_eq (s : State) :
    s.remaining = 2 * (s.expandedSize.toNat - s.outCount.toNat) + s.readsFirst := rfl

theorem State.readsFirst_le (s : State) : s.readsFirst ≤ 1 := by
  unfold State.readsFirst
  split_ifs <;> decide

theorem State.readsFirst_of_lh5 (h : s.codec = Config.codecLh5) :
    s.readsFirst = if s.phase = .blockHeader then 1 else 0 := if_pos h

theorem State.readsFirst_of_lzss (h : s.codec = Config.codecLzss) :
    s.readsFirst = if s.ctrlLeft = 0#4 then 1 else 0 := by
  rw [State.readsFirst, if_neg (by rw [h]; decide)]

theorem State.MovesTo.remaining_lt (h : s.MovesTo t) (hfirst : t.readsFirst < s.readsFirst) :
    t.remaining < s.remaining := by
  rw [State.remaining_eq, State.remaining_eq, h.outCount, h.expandedSize]
  exact Nat.add_lt_add_left hfirst _

/-- A byte emitted weighs more than the header or control byte that may come next. -/
theorem State.Emits.remaining_lt {app : State → Byte → State} {u q : State} (happ : Appends app) (hu : s.MovesTo u)
    (hq : u.Emits app q) (hgrows : u.outCount.toNat < q.outCount.toNat) (ht : q.MovesTo t) :
    t.remaining < s.remaining := by
  have hroom := hq.outCount_lt_expandedSize hgrows
  have hfirst := t.readsFirst_le
  rw [hu.outCount] at hroom hgrows
  rw [hu.expandedSize] at hroom
  rw [State.remaining_eq, State.remaining_eq, ht.expandedSize, ht.outCount, hq.expandedSize happ, hu.expandedSize]
  omega

theorem State.HeaderDone.movesTo (h : s.HeaderDone t) : s.MovesTo t := by
  obtain ⟨u, ⟨n, k, a, b, c, rfl, hn⟩, -, -, rfl⟩ := h
  exact ⟨rfl, hn, le_rfl⟩

theorem State.HeaderDone.phase (h : s.HeaderDone t) : t.phase = .streaming := by
  obtain ⟨u, -, -, -, rfl⟩ := h
  rfl

theorem State.BlockTo.remaining_lt (h : s.BlockTo t) (hrun : s.state = .run) (hrun' : t.state = .run) :
    t.remaining < s.remaining := by
  have hcodec := h.codec
  cases h with
  | rests h => exact absurd hrun h
  | finishes _ _ _ => cases hrun'
  | header hs hphase h =>
    refine h.movesTo.remaining_lt ?_
    rw [State.readsFirst_of_lh5 hs.codec, hphase, State.readsFirst_of_lh5 (hcodec.trans hs.codec), h.phase]
    decide
  | headerRaises _ _ h => exact absurd hrun' h.state_ne_run
  | symbol _ _ hu hq hgrows => exact hq.remaining_lt appends_appended hu.movesTo hgrows (State.endBlock_movesTo _)
  | symbolRaises _ _ h => exact absurd hrun' h.state_ne_run
  | control hs hleft h hloaded =>
    refine h.movesTo.remaining_lt ?_
    rw [State.readsFirst_of_lzss hs.codec, hleft, State.readsFirst_of_lzss (hcodec.trans hs.codec), hloaded]
    decide
  | token _ _ hu hq hgrows => exact hq.remaining_lt appends_ringAppended hu.movesTo hgrows (.refl _)
  | tokenEnds _ h => exact absurd hrun' h.state_ne_run

end

/-- With no host action pending, a step is a step of the block in the state as it is. -/
theorem step_to_of_no_host {s t : State} (hhost : s.host = []) (ht : step s = .next t) : s.BlockTo t := by
  rw [step_of_no_host hhost] at ht
  exact blockStep_to ht

/-- Settles O57: a header or a control byte costs the one that is counted for it, and a symbol or a token emits. -/
theorem everyBlockStepMakesProgress : Obligations.EveryBlockStepMakesProgress := by
  intro s t hhost hrun ht
  refine ⟨(step_to_of_no_host hhost ht).remaining_lt hrun, ?_⟩
  have hfirst := s.readsFirst_le
  rw [State.remaining_eq]
  omega

/-! ## Cursors and output (R24, R61, R250) -/

/-- An EMIT moves no stream cursor. -/
theorem EmitOf.cursors {codec : BitVec 3} {app : State → Byte → State} (h : EmitOf codec app) (s : State) (v : Byte) :
    (app s v).bitpos = s.bitpos ∧ (app s v).inPos = s.inPos := by
  cases h with
  | lh5 => exact ⟨rfl, rfl⟩
  | lzss => exact ⟨rfl, rfl⟩

theorem State.Emits.cursors {s t : State} {codec : BitVec 3} {app : State → Byte → State} (h : s.Emits app t)
    (happ : EmitOf codec app) : t.bitpos = s.bitpos ∧ t.inPos = s.inPos :=
  h.keeps (P := fun u => u.bitpos = s.bitpos ∧ u.inPos = s.inPos) ⟨rfl, rfl⟩ fun u v _ ⟨hbit, hin⟩ =>
    have ⟨hbit', hin'⟩ := happ.cursors u v
    ⟨hbit'.trans hbit, hin'.trans hin⟩

/-- Settles O58: moves and EMITs do not go back, and an EMIT writes at OUT_COUNT. -/
theorem cursorAndOutputOnlyAdvance : Obligations.CursorAndOutputOnlyAdvance := by
  intro s t hhost hrun hstep
  obtain ⟨app, u, q, happ, hu, hq, ht⟩ := (step_to_of_no_host hhost hstep).exists_emits hrun
  obtain ⟨hbit, hin⟩ := hq.cursors happ
  have hcount := hq.outCount_le happ.appends
  rw [hu.outCount, ← ht.outCount] at hcount
  have ⟨_, hubit, huin⟩ := hu
  have ⟨_, htbit, htin⟩ := ht
  refine ⟨hubit.trans (hbit ▸ htbit), huin.trans (hin ▸ htin), hcount, fun a ha => ?_⟩
  rw [ht.memRead, hq.memRead_out_elsewhere happ.appends (.inl (hu.outCount ▸ ha)), hu.memRead]

/-! ## The job's inputs (R9, R75, R318) -/

/-- The parameters, IN, CODEC, IN_LEN and EXPANDED_SIZE are those of s. -/
def State.sameInputs (s t : State) : Prop :=
  t.params = s.params ∧ t.inMem = s.inMem ∧ t.codec = s.codec ∧ t.inLen = s.inLen ∧ t.expandedSize = s.expandedSize

section
variable {s t : State}

theorem State.BlockTo.sameInputs (h : s.BlockTo t) : s.sameInputs t := by
  refine h.keeps (P := s.sameInputs) ⟨rfl, rfl, rfl, rfl, rfl⟩ (fun u w hu hw => ?_) fun u v happ hu => ?_
  · obtain ⟨hw, -⟩ := hw
    rw [hw]
    exact hu
  · cases happ with
    | lh5 => exact hu
    | lzss => exact hu

theorem State.CommandTo.params {c : HostCommand} (h : s.CommandTo c t) : t.params = s.params := by
  cases h <;> rfl

theorem State.CommandTo.inMem {c : HostCommand} (h : s.CommandTo c t) : t.inMem = s.inMem := by
  cases h <;> rfl

theorem State.CommandTo.sameInputs {c : HostCommand} (h : s.CommandTo c t) (hc : c ≠ .reset) : s.sameInputs t := by
  refine ⟨h.params, h.inMem, ?_⟩
  cases h with
  | resets => exact absurd rfl hc
  | startIgnored _ => exact ⟨rfl, rfl, rfl⟩
  | starts _ _ => exact ⟨rfl, rfl, rfl⟩
  | startRaises _ _ => exact ⟨rfl, rfl, rfl⟩
  | aborts _ => exact ⟨rfl, rfl, rfl⟩
  | abortIgnored _ => exact ⟨rfl, rfl, rfl⟩

theorem State.AccessTo.params (h : s.AccessTo t) : t.params = s.params := by
  cases h <;> rfl

theorem State.AccessTo.sameInputs (h : s.AccessTo t) (hrun : s.state = .run) : s.sameInputs t := by
  cases h with
  | reads v f => exact ⟨rfl, rfl, rfl, rfl, rfl⟩
  | writesRegisters hne c n e => exact absurd hrun hne
  | writesIn hne a v => exact absurd hrun hne

end

/-- Settles O59: no operation and no command but CMD.RESET writes an input, and the host's writes need STATE outside
RUN. -/
theorem runKeepsJobInputs : Obligations.RunKeepsJobInputs := by
  intro s t ht
  cases step_to ht with
  | block _ h =>
    obtain ⟨hparams, hin, hregisters⟩ := h.sameInputs
    exact ⟨hparams, fun _ => ⟨hin, fun _ => hregisters⟩⟩
  | command c hhead h =>
    refine ⟨h.params, fun _ => ⟨h.inMem, fun hreset => ?_⟩⟩
    obtain ⟨-, -, hregisters⟩ := h.sameInputs fun hc => hreset (hc ▸ hhead)
    exact hregisters
  | access _ _ h =>
    refine ⟨h.params, fun hrun => ?_⟩
    obtain ⟨-, hin, hregisters⟩ := h.sameInputs hrun
    exact ⟨hin, fun _ => hregisters⟩

/-! ## How a job comes to DONE (R315, R320) -/

section
variable {s t : State}

/-- How a step from s to t comes to DONE: the output was complete, or the input of LZSS is exhausted under policy end.
-/
def State.DoneBy (s t : State) : Prop :=
  t.outCount = s.outCount ∧
    (s.outCount = s.expandedSize ∨
      (s.Working Config.codecLzss ∧ s.params.eofPolicy = .finish ∧ s.inPos = s.inLen ∧ t.inPos = t.inLen))

/-- How a step from s to t comes to FAULT: by a raise of the operation under way. -/
def State.FaultBy (s t : State) : Prop :=
  (s.Working Config.codecLh5 ∧ s.phase = .blockHeader ∧ t.faultCode = 1#3) ∨
    (s.Working Config.codecLh5 ∧ s.phase = .streaming ∧ t.faultCode = 2#3) ∨
    (s.Working Config.codecLzss ∧ t.faultCode = 3#3 ∧ t.inPos = t.inLen) ∨
    (s.Working Config.codecLzss ∧ t.faultCode = 6#3 ∧ s.params.ringFill = none)

theorem State.TokenEnds.state_cases (h : s.TokenEnds t) (hs : s.Working Config.codecLzss) :
    (t.state = .done ∧ s.DoneBy t) ∨ (t.state = .fault ∧ s.FaultBy t) := by
  cases h with
  | truncated place h hend _ => exact .inr ⟨rfl, .inr (.inr (.inl ⟨hs, rfl, hend⟩))⟩
  | finished h hstart hend hpolicy =>
    obtain ⟨p, c, l, rfl, -⟩ := h
    exact .inl ⟨rfl, rfl, .inr ⟨hs, hpolicy, hstart.symm.trans hend, hend⟩⟩
  | unwritten cell h hq hcell =>
    have hfill := State.ringFill_of_memRead_none hcell
    obtain ⟨p, c, l, rfl, -⟩ := h
    rw [hq.ringAppended_frame] at hfill
    exact .inr ⟨rfl, .inr (.inr (.inr ⟨hs, rfl, hfill⟩))⟩

/-- R311: a step of a running job stays in RUN, or ends the job in one of these ways. -/
theorem State.BlockTo.state_cases (h : s.BlockTo t) (hrun : s.state = .run) :
    t.state = .run ∨ (t.state = .done ∧ s.DoneBy t) ∨ (t.state = .fault ∧ s.FaultBy t) := by
  cases h with
  | rests h => exact absurd hrun h
  | finishes _ _ hfull => exact .inr (.inl ⟨rfl, rfl, .inl hfull⟩)
  | header _ _ h =>
    obtain ⟨u, ⟨n, k, a, b, c, rfl, -⟩, -, -, rfl⟩ := h
    exact .inl hrun
  | headerRaises hs hphase h => exact .inr (.inr ⟨h.state, .inl ⟨hs, hphase, h.faultCode⟩⟩)
  | symbol _ _ hu hq _ =>
    obtain ⟨n, f, rfl, -⟩ := hu
    rw [State.endBlock_eq, hq.appended_frame]
    exact .inl hrun
  | symbolRaises hs hphase h => exact .inr (.inr ⟨h.state, .inr (.inl ⟨hs, hphase, h.faultCode⟩)⟩)
  | control _ _ h _ => exact .inl (h.state.trans hrun)
  | token _ _ hu hq _ =>
    rw [hq.ringAppended_frame]
    exact .inl (hu.state.trans hrun)
  | tokenEnds hs h => exact .inr (h.state_cases hs)

theorem State.BlockTo.doneBy (h : s.BlockTo t) (hrun : s.state = .run) (hdone : t.state = .done) : s.DoneBy t := by
  rcases h.state_cases hrun with hrun' | ⟨-, h⟩ | ⟨hfault, -⟩
  · cases hdone.symm.trans hrun'
  · exact h
  · cases hdone.symm.trans hfault

/-- In RUN a command leaves RUN as it is or comes to IDLE. -/
theorem State.CommandTo.state_cases {c : HostCommand} (h : s.CommandTo c t) (hrun : s.state = .run) :
    (c = .start ∧ t.state = .run) ∨ (c ≠ .start ∧ t.state = .idle) := by
  cases h with
  | resets => exact .inr ⟨nofun, rfl⟩
  | startIgnored _ => exact .inl ⟨rfl, hrun⟩
  | starts hne _ => exact absurd hrun hne
  | startRaises hne _ => exact absurd hrun hne
  | aborts _ => exact .inr ⟨nofun, rfl⟩
  | abortIgnored hne => exact absurd hrun hne

theorem State.AccessTo.state (h : s.AccessTo t) : t.state = s.state := by
  cases h <;> rfl

/-- From RUN, only a step of the block comes to DONE or FAULT. -/
theorem State.StepTo.block_of_ended (h : s.StepTo t) (hrun : s.state = .run)
    (hended : t.state = .done ∨ t.state = .fault) : s.blockTurn ∧ s.blockStart.BlockTo t := by
  cases h with
  | block hturn h => exact ⟨hturn, h⟩
  | command c _ h =>
    rcases h.state_cases hrun with ⟨-, h⟩ | ⟨-, h⟩ <;> rw [h] at hended <;> rcases hended with h | h <;> cases h
  | access _ _ h =>
    rw [h.state.trans hrun] at hended
    rcases hended with h | h <;> cases h

end

/-- Settles O41: the invariants give the fault registers and the bytes; OUT_COUNT was within EXPANDED_SIZE before. -/
theorem doneMeansOutputComplete : Obligations.DoneMeansOutputComplete := by
  intro s t hlegal hfault hout hrun ht hdone
  obtain ⟨hzero, -⟩ := stepKeepsFaultRegistersLegal s t hfault ht
  obtain ⟨hcode, -⟩ := hzero (hdone ▸ nofun)
  obtain ⟨-, h⟩ := (step_to ht).block_of_ended hrun (.inl hdone)
  obtain ⟨hparams, -, hcodec, -, hsize⟩ := h.sameInputs
  refine ⟨hcode, stepKeepsOutWritten s t hout ht (.inr hdone), ?_⟩
  rw [hparams, hcodec, hsize]
  obtain ⟨hkept, hfull | ⟨hs, hpolicy, -, hend⟩⟩ := h.doneBy hrun hdone <;> rw [hkept]
  · exact .inl hfull
  · obtain ⟨-, hle, -⟩ := hlegal hrun
    exact .inr ⟨Nat.lt_of_le_of_ne hle (mt BitVec.eq_of_toNat_eq hs.more), hs.codec, hpolicy, hend⟩

end Sys2Proof.Machine
end

section
/-! The frames of the operations: what each leaves unchanged, whether it goes on or raises (60_exceptions.md R350). -/

namespace Sys2Proof.Machine

/-- The next state of an operation is one it goes on with or one it has ended in. -/
theorem Res.Ensures.of_next {E P : State → Prop} {r : Res Unit} {t : State} (h : r.Ensures E fun _ => P)
    (ht : r.toOutcome = .next t) : P t ∨ E t :=
  (Res.toOutcome_eq_next.mp ht).imp h.of_ok h.of_ended

/-! ## The header (42_lh5_block_header.md) -/

/-- What the header operation i leaves unchanged up to a raise. -/
structure HeaderFrame (i : Instr) (s t : State) : Prop where
  frame : t = { s with
    bitpos := t.bitpos, blockCount := t.blockCount, phase := t.phase, tabT := t.tabT, tabC := t.tabC, tabP := t.tabP
    freeIx := t.freeIx }
  bitpos : s.bitpos ≤ t.bitpos
  freeIx : i ≠ .lh5Clen ∨ s.tabT.decodes .t → t.freeIx = s.freeIx
  block : i ≠ .lh5Hdr → t.blockCount = s.blockCount ∧ t.phase = s.phase
  tlen : i = .lh5Tlen → t.tabC = s.tabC ∧ t.tabP = s.tabP
  clen : i = .lh5Clen → t.tabT = s.tabT ∧ t.tabP = s.tabP
  plen : i = .lh5Plen → t.tabT = s.tabT ∧ t.tabC = s.tabC

section
variable {s t : State}

theorem State.SectionTo.headerFrame {x : Alphabet} (h : s.SectionTo x t) : HeaderFrame x.sectionInstr s t := by
  obtain ⟨n, f, u, rfl, hn, hf, -⟩ := h
  cases x with
  | t => exact ⟨rfl, hn, fun _ => hf (.inl nofun), fun _ => ⟨rfl, rfl⟩, fun _ => ⟨rfl, rfl⟩, nofun, nofun⟩
  | c =>
    exact ⟨rfl, hn, fun h => hf (h.imp (fun h => absurd rfl h) id), fun _ => ⟨rfl, rfl⟩, nofun, fun _ => ⟨rfl, rfl⟩,
      nofun⟩
  | p => exact ⟨rfl, hn, fun _ => hf (.inl nofun), fun _ => ⟨rfl, rfl⟩, nofun, nofun, fun _ => ⟨rfl, rfl⟩⟩

theorem State.HeaderTo.headerFrame (h : s.HeaderTo t) : HeaderFrame .lh5Hdr s t := by
  obtain ⟨n, k, a, b, c, rfl, hn⟩ := h
  exact ⟨rfl, hn, fun _ => rfl, fun h => absurd rfl h, nofun, nofun, nofun⟩

theorem State.HeaderDone.headerFrame (h : s.HeaderDone t) : HeaderFrame .lh5Hdr s t := by
  obtain ⟨u, ⟨n, k, a, b, c, rfl, hn⟩, -, -, rfl⟩ := h
  exact ⟨rfl, hn, fun _ => rfl, fun h => absurd rfl h, nofun, nofun, nofun⟩

theorem exec_sectionInstr_headerFrame {x : Alphabet} (ht : exec x.sectionInstr s = .next t) :
    HeaderFrame x.sectionInstr s t ∨ RaisedFrom (HeaderFrame x.sectionInstr s) 1#3 t := by
  rw [exec_sectionInstr] at ht
  exact ((sectionPart_ensures x s).of_next ht).imp (fun h => h.1.headerFrame) fun h => h.imp fun _ hu => hu.headerFrame

theorem exec_header_headerFrame {i : Instr} (hi : i = .lh5Hdr ∨ i = .lh5Tlen ∨ i = .lh5Clen ∨ i = .lh5Plen)
    (ht : exec i s = .next t) : HeaderFrame i s t ∨ RaisedFrom (HeaderFrame i s) 1#3 t := by
  rcases hi with rfl | rfl | rfl | rfl
  · exact ((blockHeader_ensures s).of_next ht).imp (fun h => h.headerFrame) fun h => h.imp fun _ hu => hu.headerFrame
  · exact exec_sectionInstr_headerFrame (x := .t) ht
  · exact exec_sectionInstr_headerFrame (x := .c) ht
  · exact exec_sectionInstr_headerFrame (x := .p) ht

/-- Settles O44: a raise adds the fault registers and STATE to what the operation has written. -/
theorem headerOperationsFrame : Obligations.HeaderOperationsFrame := by
  intro s t i hi ht
  rcases exec_header_headerFrame hi ht with h | ⟨u, cause, h, hcode, rfl⟩
  · obtain ⟨hframe, hbit, hfree, hblock, htlen, hclen, hplen⟩ := h
    have hstate : t.state = s.state := (congrArg State.state hframe :)
    refine ⟨?_, hbit, hfree, hblock, htlen, hclen, hplen, fun _ => ⟨hstate, ?_⟩, fun h => absurd hstate h⟩ <;>
      rw [hframe]
    exact ⟨rfl, rfl, rfl⟩
  · obtain ⟨hframe, hbit, hfree, hblock, htlen, hclen, hplen⟩ := h
    exact ⟨congrArg (State.faulted · cause) hframe, hbit, hfree, hblock, htlen, hclen, hplen, fun h => absurd rfl h,
      fun _ => ⟨rfl, hcode⟩⟩

/-! ## The symbols (43_lh5_streaming.md) -/

/-- What the symbol operation i leaves unchanged up to a raise. -/
structure StreamFrame (i : Instr) (s t : State) : Prop where
  frame : t = { s with
    bitpos := t.bitpos, blockCount := t.blockCount, phase := t.phase, outMem := t.outMem, outCount := t.outCount
    freeIx := t.freeIx }
  freeIx : s.tabC.decodes .c → s.tabP.decodes .p → t.freeIx = s.freeIx
  bitpos : s.bitpos ≤ t.bitpos
  outCount : s.outCount.toNat ≤ t.outCount.toNat
  block : i ≠ .lh5Sym → t.blockCount = s.blockCount ∧ t.phase = s.phase
  memRead_out : ∀ a, a < s.outCount.toNat ∨ t.outCount.toNat ≤ a → t.memRead .out a = s.memRead .out a

theorem StreamFrame.refl (i : Instr) (s : State) : StreamFrame i s s :=
  ⟨rfl, fun _ _ => rfl, le_rfl, le_rfl, fun _ => ⟨rfl, rfl⟩, fun _ _ => rfl⟩

theorem State.DecodeTo.streamFrame (i : Instr) (h : s.DecodeTo .p t) : StreamFrame i s t := by
  obtain ⟨n, f, rfl, hn, hf⟩ := h
  exact ⟨rfl, fun _ => hf, hn, le_rfl, fun _ => ⟨rfl, rfl⟩, fun _ _ => rfl⟩

theorem State.SymbolTo.streamFrame (h : s.SymbolTo t) : StreamFrame .lh5Sym s t := by
  obtain ⟨n, f, rfl, hn, hf⟩ := h
  exact ⟨rfl, hf, hn, le_rfl, fun h => absurd rfl h, fun _ _ => rfl⟩

theorem StreamFrame.emits {i : Instr} {u : State} (h : StreamFrame i s u) (hq : u.Emits State.appended t) :
    StreamFrame i s t := by
  obtain ⟨hframe, hfree, hbit, hcount, hblock, hout⟩ := h
  have hle := hq.outCount_le appends_appended
  have helse (a : Nat) (ha : a < s.outCount.toNat ∨ t.outCount.toNat ≤ a) : t.memRead .out a = s.memRead .out a := by
    rw [hq.memRead_out_elsewhere appends_appended (by omega), hout a (by omega)]
  have hframe' := hq.appended_frame
  generalize t.outMem = m, t.outCount = n at hframe' hle helse
  subst hframe'
  refine ⟨?_, hfree, hbit, hcount.trans hle, hblock, helse⟩
  dsimp only
  rw [hframe]

theorem StreamFrame.endBlock (h : StreamFrame .lh5Sym s t) : StreamFrame .lh5Sym s t.endBlock := by
  obtain ⟨hframe, hfree, hbit, hcount, -, hout⟩ := h
  rw [State.endBlock_eq]
  refine ⟨?_, hfree, hbit, hcount, fun h => absurd rfl h, hout⟩
  dsimp only
  rw [hframe]

theorem exec_symbol_streamFrame {i : Instr} (hi : i = .lh5Sym ∨ (∃ c, i = .lh5Lit c) ∨ ∃ c, i = .lh5Match c)
    (ht : exec i s = .next t) : StreamFrame i s t ∨ RaisedFrom (StreamFrame i s) 2#3 t := by
  rcases hi with rfl | ⟨c, rfl⟩ | ⟨c, rfl⟩
  · refine ((streamSymbol_ensures s).of_next ht).imp ?_ fun h => h.imp fun _ hu => hu.streamFrame
    rintro ⟨u, q, hu, hq, -, rfl⟩
    exact (hu.streamFrame.emits hq).endBlock
  · have hexec : exec (.lh5Lit c) s = if c < Config.litLimit then (literalSymbol c s).toOutcome
        else .refused .noSuchOperation := rfl
    rw [hexec] at ht
    split_ifs at ht
    rcases (literalSymbol_ensures c s).of_next ht with ⟨hq, -⟩ | h
    · exact .inl ((StreamFrame.refl _ s).emits hq)
    · exact h.elim
  · have hexec : exec (.lh5Match c) s = if c < Config.litLimit ∨ Config.symbolsC ≤ c then .refused .noSuchOperation
        else (matchSymbol c s).toOutcome := rfl
    rw [hexec] at ht
    split_ifs at ht
    refine ((matchSymbol_ensures c s).of_next ht).imp ?_ fun h => h.imp fun _ hu => hu.streamFrame _
    rintro ⟨u, hu, hq, -⟩
    exact (hu.streamFrame _).emits hq

/-- Settles O45: a run of EMITs after the cursor has moved, or a raise before any. -/
theorem streamOperationsFrame : Obligations.StreamOperationsFrame := by
  intro s t i hi ht
  rcases exec_symbol_streamFrame hi ht with h | ⟨u, cause, h, hcode, rfl⟩
  · obtain ⟨hframe, hfree, hbit, hcount, hblock, hout⟩ := h
    have hstate : t.state = s.state := (congrArg State.state hframe :)
    refine ⟨?_, hfree, hbit, hcount, hblock, hout, fun h => absurd hstate h, fun _ => ?_⟩ <;> rw [hframe]
    exact ⟨rfl, rfl, rfl⟩
  · obtain ⟨hframe, hfree, hbit, hcount, hblock, hout⟩ := h
    exact ⟨congrArg (State.faulted · cause) hframe, hfree, hbit, hcount, hblock, hout, fun _ => ⟨rfl, hcode⟩,
      fun h => absurd rfl h⟩

/-! ## LZSS (44_lzss.md) -/

/-- What an LZSS operation leaves unchanged, up to a raise or the end of the job. -/
structure TokenFrame (s t : State) : Prop where
  frame : t = { s with
    inPos := t.inPos, ctrl := t.ctrl, ctrlLeft := t.ctrlLeft, outMem := t.outMem, outCount := t.outCount
    ringMem := t.ringMem, ringW := t.ringW }
  inPos : s.inPos.toNat ≤ t.inPos.toNat
  outCount : s.outCount.toNat ≤ t.outCount.toNat
  memRead_out : ∀ a, a < s.outCount.toNat ∨ t.outCount.toNat ≤ a → t.memRead .out a = s.memRead .out a
  memRead_ring : ∀ a, (∀ k, s.outCount.toNat + k < t.outCount.toNat → a ≠ (s.ringW.toNat + k) % 4096) →
    t.memRead .ring a = s.memRead .ring a

/-- Ring cells that no emitted byte goes to are as they were. -/
theorem State.Emits.memRead_ring_elsewhere (h : s.Emits State.ringAppended t) (hcanon : s.memoriesCanonical) {a : Nat}
    (ha : ∀ k, s.outCount.toNat + k < t.outCount.toNat → a ≠ (s.ringW.toNat + k) % 4096) :
    t.memRead .ring a = s.memRead .ring a := by
  induction h with
  | refl => rfl
  | @append s t v hroom h ih =>
    have hle := h.outCount_le appends_ringAppended
    rw [State.ringAppended_outCount_toNat v hroom] at hle
    have hfirst : a ≠ s.ringW.toNat := by
      have hcell := ha 0 (by omega)
      rwa [Nat.add_zero, Nat.mod_eq_of_lt s.ringW.isLt] at hcell
    rw [ih (State.memoriesCanonical_ringAppended hcanon v) fun k hk => ?_, State.memRead_ring_ringAppended hcanon,
      if_neg hfirst]
    rw [State.ringAppended_outCount_toNat v hroom] at hk
    rw [State.ringAppended_ringW_toNat, Nat.mod_add_mod, Nat.add_assoc, Nat.add_comm 1 k]
    exact ha (k + 1) (by omega)

theorem State.TokenTo.tokenFrame (h : s.TokenTo t) : TokenFrame s t := by
  obtain ⟨p, c, l, rfl, hp, -⟩ := h
  exact ⟨rfl, hp, le_rfl, fun _ _ => rfl, fun _ _ => rfl⟩

theorem State.TokenTo.emits_tokenFrame {u : State} (h : s.TokenTo u) (hq : u.Emits State.ringAppended t)
    (hcanon : s.memoriesCanonical) : TokenFrame s t := by
  obtain ⟨p, c, l, rfl, hp, -⟩ := h
  have hle := hq.outCount_le appends_ringAppended
  have hout (a : Nat) := hq.memRead_out_elsewhere appends_ringAppended (a := a)
  have hring (a : Nat) := hq.memRead_ring_elsewhere hcanon (a := a)
  have hframe := hq.ringAppended_frame
  generalize t.outMem = m, t.outCount = n, t.ringMem = r, t.ringW = w at hframe hle hout hring
  subst hframe
  exact ⟨rfl, hp, hle, fun a => hout a, fun a => hring a⟩

/-- The bytes of OUT and RING, OUT_COUNT and RING_W are those of s. -/
def State.sameBytes (s t : State) : Prop :=
  t.outMem = s.outMem ∧ t.outCount = s.outCount ∧ t.ringMem = s.ringMem ∧ t.ringW = s.ringW

theorem controlByte_sameBytes (s : State) : (controlByte s).Ensures s.sameBytes fun _ => s.sameBytes := by
  rcases fetchOrEnd_cases .ctrlByte s with ⟨-, -, e⟩ | ⟨-, -, e⟩ | ⟨-, e⟩ | ⟨-, e⟩ <;> rw [controlByte, e]
  · exact .ended ⟨rfl, rfl, rfl, rfl⟩
  · exact .ended ⟨rfl, rfl, rfl, rfl⟩
  · exact .ok ⟨rfl, rfl, rfl, rfl⟩
  · exact .stop _

/-- How an LZSS operation answers a next state: it goes on, it raises, or the job is done. -/
theorem exec_token_tokenFrame {i : Instr} (hcanon : s.memoriesCanonical)
    (hi : i = .lzssCtrl ∨ i = .lzssLit ∨ i = .lzssMatch) (ht : exec i s = .next t) :
    TokenFrame s t ∨
      (∃ u cause, TokenFrame s u ∧ (Cause.code cause = 3#3 ∨ Cause.code cause = 6#3) ∧ t = u.faulted cause) ∨
      ∃ u, TokenFrame s u ∧ u.inPos = u.inLen ∧ s.params.eofPolicy = .finish ∧ t = u.finish := by
  have hdone (h : s.TokenDone t) : TokenFrame s t := by
    obtain ⟨u, hu, hq, -⟩ := h
    exact hu.emits_tokenFrame hq hcanon
  have hends : (TokenFrame s t) ∨ s.TokenEnds t := by
    rcases hi with rfl | rfl | rfl
    · exact ((controlByte_ensures s).of_next ht).imp_left fun h => h.1.tokenFrame
    · exact ((literalToken_ensures s).of_next ht).imp_left hdone
    · exact ((matchToken_ensures s).of_next ht).imp_left hdone
  refine hends.imp_right fun h => ?_
  cases h with
  | truncated place h _ _ => exact .inl ⟨_, _, h.tokenFrame, .inl rfl, rfl⟩
  | finished h _ hend hpolicy =>
    have hparams := congrArg State.params h.tokenFrame.frame
    exact .inr ⟨_, h.tokenFrame, hend, hparams ▸ hpolicy, rfl⟩
  | unwritten cell h hq _ => exact .inl ⟨_, _, h.emits_tokenFrame hq hcanon, .inr rfl, rfl⟩

/-- Settles O46: TAKEBIT and FETCH move the cursor, EMIT writes the bytes, and what ends the operation writes STATE and
the fault registers. -/
theorem lzssOperationsFrame : Obligations.LzssOperationsFrame := by
  intro s t i hcanon hi ht
  have hctrl (h : i = .lzssCtrl) : s.sameBytes t := by
    subst h
    exact ((controlByte_sameBytes s).of_next ht).elim id id
  rcases exec_token_tokenFrame hcanon hi ht with h | ⟨u, cause, h, hcode, rfl⟩ | ⟨u, h, hend, hpolicy, rfl⟩
  · obtain ⟨hframe, hin, hcount, hout, hring⟩ := h
    have hstate : t.state = s.state := (congrArg State.state hframe :)
    refine ⟨?_, hin, hcount, hctrl, hout, hring, fun h => absurd hstate h, fun _ => ?_⟩ <;> rw [hframe]
    exact ⟨rfl, rfl, rfl⟩
  · obtain ⟨hframe, hin, hcount, hout, hring⟩ := h
    exact ⟨congrArg (State.faulted · cause) hframe, hin, hcount, hctrl, hout, hring, fun _ => .inl ⟨rfl, hcode⟩,
      fun h => absurd rfl h⟩
  · obtain ⟨hframe, hin, hcount, hout, hring⟩ := h
    refine ⟨?_, hin, hcount, hctrl, hout, hring, fun _ => .inr ⟨rfl, hpolicy, hend⟩, fun _ => ?_⟩ <;> rw [hframe]
    · rfl
    · exact ⟨rfl, rfl, rfl⟩

end

end Sys2Proof.Machine
end

section
/-! The job-state table (45_host_commands.md R311) in both directions, and that no turn of the block or of a command
stops the model (60_exceptions.md R340). -/

namespace Sys2Proof.Machine

section
variable {s t : State}

/-! ## What step selection runs in a job whose output is not complete -/

theorem blockStep_of_header (hs : s.Working Config.codecLh5) (hphase : s.phase = .blockHeader) :
    blockStep s = exec .lh5Hdr s := by
  rw [blockStep, selection_of_lh5 hs.run hs.codec, if_neg hs.more, State.lh5Selector, hphase]
  rfl

theorem blockStep_of_symbol (hs : s.Working Config.codecLh5) (hphase : s.phase = .streaming) :
    blockStep s = exec .lh5Sym s := by
  rw [blockStep, selection_of_lh5 hs.run hs.codec, if_neg hs.more, State.lh5Selector, hphase]
  rfl

theorem blockStep_of_control (hs : s.Working Config.codecLzss) (hleft : s.ctrlLeft = 0#4) :
    blockStep s = exec .lzssCtrl s := by
  rw [blockStep, selection_of_lzss hs.run hs.codec, if_neg hs.more, State.lzssSelector, if_pos hleft]
  rfl

theorem blockStep_of_token (hs : s.Working Config.codecLzss) (hleft : s.ctrlLeft ≠ 0#4) :
    blockStep s = exec (if s.ctrl.getLsbD 7 then .lzssLit else .lzssMatch) s := by
  rw [blockStep, selection_of_lzss hs.run hs.codec, if_neg hs.more, selectDecoded_of_token hleft]

/-! ## The raises of a running job end it in FAULT (R343) -/

theorem exec_lh5Hdr_of_headerRaises (hrun : s.state = .run) (h : s.headerRaises) :
    ∃ t, exec .lh5Hdr s = .next t ∧ t.state = .fault := by
  obtain ⟨s1, s2, hcount, hT, h⟩ := h
  obtain ⟨hfaultT, hgoesT⟩ := hdrRunsItsParts s s1 s2 hrun hcount hT
  rcases h with hfault | ⟨hrun2, s3, hC, h⟩
  · exact ⟨s2, hfaultT hfault, hfault⟩
  obtain ⟨hfaultC, hgoesC⟩ := hgoesT hrun2 s3 hC
  rcases h with hfault | ⟨hrun3, s4, hP, hfault⟩
  · exact ⟨s3, hfaultC hfault, hfault⟩
  obtain ⟨hfaultP, -⟩ := hgoesC hrun3 s4 hP
  exact ⟨s4, hfaultP hfault, hfault⟩

theorem exec_lh5Sym_of_symbolRaises (h : s.symbolRaises) : ∃ t, exec .lh5Sym s = .next t ∧ t.state = .fault := by
  obtain ⟨c, w, p, v, hcode, hlo, -, hdist, hoff⟩ := h
  have hdist' : (s.symbolTaken w).codeAt .p p v := hdist
  have hoff' : (s.symbolTaken w).outCount.toNat < (s.symbolTaken w).distanceAt p v + 1 := hoff
  rw [exec_lh5Sym_of_codeAt hcode, if_neg (Nat.not_lt.mpr hlo), matchSymbol_of_codeAt c hdist', if_pos hoff']
  exact ⟨_, rfl, rfl⟩

/-- R290: with the input exhausted a step of LZSS ends the job by the policy. -/
theorem blockStep_of_exhausted (hs : s.Working Config.codecLzss) (hend : s.inPos = s.inLen) :
    ∃ t, blockStep s = .next t ∧ (s.params.eofPolicy = .finish → t.state = .done) ∧
      (s.params.eofPolicy = .fault → t.state = .fault) := by
  obtain ⟨-, h⟩ := lzssInputExhausted s
  obtain ⟨hctrlFault, hctrlDone, htokenFault, htokenDone⟩ := h hend
  by_cases hleft : s.ctrlLeft = 0#4
  · rw [blockStep_of_control hs hleft]
    cases hpolicy : s.params.eofPolicy with
    | fault => exact ⟨_, hctrlFault hpolicy, nofun, fun _ => rfl⟩
    | finish => exact ⟨_, hctrlDone hpolicy, fun _ => rfl, nofun⟩
  · rw [blockStep_of_token hs hleft]
    cases hpolicy : s.params.eofPolicy with
    | fault =>
      obtain ⟨hlit, hmatch⟩ := htokenFault hleft hpolicy
      split_ifs
      · exact ⟨_, hlit, nofun, fun _ => rfl⟩
      · exact ⟨_, hmatch, nofun, fun _ => rfl⟩
    | finish =>
      obtain ⟨hlit, hmatch⟩ := htokenDone hleft hpolicy
      split_ifs
      · exact ⟨_, hlit, fun _ => rfl, nofun⟩
      · exact ⟨_, hmatch, fun _ => rfl, nofun⟩

theorem blockStep_of_tokenRaises (hs : s.Working Config.codecLzss) (h : s.tokenRaises) :
    ∃ t, blockStep s = .next t ∧ t.state = .fault := by
  rcases h with ⟨hend, hpolicy⟩ | ⟨hleft, hbit, h⟩
  · obtain ⟨t, ht, -, hfault⟩ := blockStep_of_exhausted hs hend
    exact ⟨t, ht, hfault hpolicy⟩
  rw [blockStep_of_token hs hleft, hbit]
  rcases h with hcut | ⟨hlen, b0, b1, hb0, hb1, f, d, k, hf, hpos, hd, hback, hk, hkd, hroom, hbefore, hcell⟩
  · obtain ⟨hmatch, -⟩ := lzssInputExhausted s
    exact ⟨_, hmatch hleft hcut, rfl⟩
  · obtain ⟨hmatch, -⟩ := ringUnwrittenFaultsOnlyWithoutFill s b0 b1 hleft hlen hb0 hb1
    obtain ⟨t, ht, hframe, -⟩ := hmatch f d k hf hk hpos hd hback hkd hroom hbefore hcell
    exact ⟨t, ht, (congrArg State.state hframe :)⟩

theorem blockStep_of_raises (hrun : s.state = .run) (hmore : s.outCount ≠ s.expandedSize) (h : s.raises) :
    ∃ t, blockStep s = .next t ∧ t.state = .fault := by
  rcases h with ⟨hcodec, hphase, h⟩ | ⟨hcodec, hphase, h⟩ | ⟨hcodec, h⟩
  · rw [blockStep_of_header ⟨hrun, hcodec, hmore⟩ hphase]
    exact exec_lh5Hdr_of_headerRaises hrun h
  · rw [blockStep_of_symbol ⟨hrun, hcodec, hmore⟩ hphase]
    exact exec_lh5Sym_of_symbolRaises h
  · exact blockStep_of_tokenRaises ⟨hrun, hcodec, hmore⟩ h

/-! ## The job-state table (R311) -/

theorem State.codecLegal_iff (s : State) : s.codecLegal = true ↔ s.codec = 3#3 ∨ s.codec = 5#3 := by
  simp [State.codecLegal]

theorem State.codecLegal_eq_false_iff (s : State) : s.codecLegal = false ↔ s.codec ≠ 3#3 ∧ s.codec ≠ 5#3 := by
  rw [← Bool.not_eq_true, State.codecLegal_iff, not_or]

/-- Outside RUN, only CMD.RESET and CMD.START change STATE. -/
theorem State.CommandTo.state_cases_of_not_run {c : HostCommand} (h : s.CommandTo c t) (hrun : s.state ≠ .run) :
    (c = .reset ∧ t.state = .idle) ∨ (c = .abort ∧ t.state = s.state) ∨
      (c = .start ∧ (s.codec = 3#3 ∨ s.codec = 5#3) ∧ t.state = .run) ∨
      (c = .start ∧ (s.codec ≠ 3#3 ∧ s.codec ≠ 5#3) ∧ t.state = .fault) := by
  cases h with
  | resets => exact .inl ⟨rfl, rfl⟩
  | startIgnored h => exact absurd h hrun
  | starts _ hcodec => exact .inr (.inr (.inl ⟨rfl, s.codecLegal_iff.mp hcodec, rfl⟩))
  | startRaises _ hcodec => exact .inr (.inr (.inr ⟨rfl, s.codecLegal_eq_false_iff.mp hcodec, rfl⟩))
  | aborts h => exact absurd h hrun
  | abortIgnored _ => exact .inr (.inl ⟨rfl, rfl⟩)

/-- A pending command is the step. -/
theorem State.StepTo.of_command {c : HostCommand} (h : s.StepTo t) (hhead : s.host.head? = some (.command c)) :
    s.blockStart.CommandTo c t := by
  cases h with
  | block hturn _ =>
    rcases hturn with hnil | hwait
    · rw [hnil] at hhead
      cases hhead
    · cases hhead.symm.trans hwait
  | command c' hhead' h =>
    cases hhead.symm.trans hhead'
    exact h
  | access _ hnone _ => exact absurd hhead (hnone c)

theorem stateTransition_of_not_run (h : s.StepTo t) (hrun : s.state ≠ .run) :
    t.state = s.state ∨ (s.host.head? = some (.command .reset) ∧ t.state = .idle) ∨
      (s.host.head? = some (.command .start) ∧ (s.codec = 3#3 ∨ s.codec = 5#3) ∧ t.state = .run) ∨
      (s.host.head? = some (.command .start) ∧ s.codec ≠ 3#3 ∧ s.codec ≠ 5#3 ∧ t.state = .fault) := by
  cases h with
  | block _ h => exact .inl (congrArg State.state (h.eq_of_not_run hrun) :)
  | command c hhead h =>
    rcases h.state_cases_of_not_run hrun with ⟨rfl, hto⟩ | ⟨-, hto⟩ | ⟨rfl, hcodec, hto⟩ | ⟨rfl, ⟨h3, h5⟩, hto⟩
    · exact .inr (.inl ⟨hhead, hto⟩)
    · exact .inl hto
    · exact .inr (.inr (.inl ⟨hhead, hcodec, hto⟩))
    · exact .inr (.inr (.inr ⟨hhead, h3, h5, hto⟩))
  | access _ _ h => exact .inl h.state

theorem stateTransition_to_idle (h : s.StepTo t) (hrun : s.state = .run) (hidle : t.state = .idle) :
    s.host.head? = some (.command .reset) ∨ s.host.head? = some (.command .abort) := by
  cases h with
  | block _ h => rcases h.state_cases hrun with h | ⟨h, -⟩ | ⟨h, -⟩ <;> cases hidle.symm.trans h
  | command c hhead h =>
    rcases h.state_cases hrun with ⟨-, h⟩ | ⟨hc, -⟩
    · cases hidle.symm.trans h
    · cases c with
      | reset => exact .inl hhead
      | start => exact absurd rfl hc
      | abort => exact .inr hhead
  | access _ _ h => cases hidle.symm.trans (h.state.trans hrun)

theorem stateTransition_to_done (h : s.StepTo t) (hrun : s.state = .run) (hdone : t.state = .done) :
    s.blockTurn ∧ (s.outCount = s.expandedSize ∨
      (s.codec = 3#3 ∧ s.params.eofPolicy = .finish ∧ s.inPos = s.inLen)) := by
  obtain ⟨hturn, h⟩ := h.block_of_ended hrun (.inl hdone)
  obtain ⟨-, hfull | ⟨hs, hpolicy, hend, -⟩⟩ := h.doneBy hrun hdone
  · exact ⟨hturn, .inl hfull⟩
  · exact ⟨hturn, .inr ⟨hs.codec, hpolicy, hend⟩⟩

theorem State.BlockTo.faultBy (h : s.BlockTo t) (hrun : s.state = .run) (hfault : t.state = .fault) : s.FaultBy t := by
  rcases h.state_cases hrun with h | ⟨h, -⟩ | ⟨-, h⟩
  · cases hfault.symm.trans h
  · cases hfault.symm.trans h
  · exact h

theorem stateTransition_to_fault (h : s.StepTo t) (hrun : s.state = .run) (hfault : t.state = .fault) :
    s.blockTurn ∧ s.outCount ≠ s.expandedSize ∧
      ((s.codec = 5#3 ∧ s.phase = .blockHeader ∧ t.faultCode = 1#3) ∨
        (s.codec = 5#3 ∧ s.phase = .streaming ∧ t.faultCode = 2#3) ∨
        (s.codec = 3#3 ∧ t.faultCode = 3#3 ∧ t.inPos = t.inLen) ∨
        (s.codec = 3#3 ∧ t.faultCode = 6#3 ∧ s.params.ringFill = none)) := by
  obtain ⟨hturn, h⟩ := h.block_of_ended hrun (.inr hfault)
  rcases h.faultBy hrun hfault with ⟨hs, h⟩ | ⟨hs, h⟩ | ⟨hs, h⟩ | ⟨hs, h⟩
  · exact ⟨hturn, hs.more, .inl ⟨hs.codec, h⟩⟩
  · exact ⟨hturn, hs.more, .inr (.inl ⟨hs.codec, h⟩)⟩
  · exact ⟨hturn, hs.more, .inr (.inr (.inl ⟨hs.codec, h⟩))⟩
  · exact ⟨hturn, hs.more, .inr (.inr (.inr ⟨hs.codec, h⟩))⟩

/-- R315: with the output complete, a step of the block is the finish step. -/
theorem State.BlockTo.eq_finish (h : s.BlockTo t) (hrun : s.state = .run) (hfull : s.outCount = s.expandedSize) :
    t = s.finish := by
  cases h with
  | rests h => exact absurd hrun h
  | finishes => rfl
  | header hs => exact absurd hfull hs.more
  | headerRaises hs => exact absurd hfull hs.more
  | symbol hs => exact absurd hfull hs.more
  | symbolRaises hs => exact absurd hfull hs.more
  | control hs => exact absurd hfull hs.more
  | token hs => exact absurd hfull hs.more
  | tokenEnds hs => exact absurd hfull hs.more

theorem State.CommandTo.start_of_not_run (h : s.CommandTo .start t) (hrun : s.state ≠ .run) :
    (s.codec = 3#3 ∨ s.codec = 5#3 → t.state = .run) ∧ (s.codec ≠ 3#3 → s.codec ≠ 5#3 → t.state = .fault) := by
  rcases h.state_cases_of_not_run hrun with ⟨h, -⟩ | ⟨h, -⟩ | ⟨-, hcodec, h⟩ | ⟨-, ⟨h3, h5⟩, h⟩
  · cases h
  · cases h
  · exact ⟨fun _ => h, fun h3 h5 => absurd hcodec (not_or.mpr ⟨h3, h5⟩)⟩
  · exact ⟨fun hcodec => absurd hcodec (not_or.mpr ⟨h3, h5⟩), fun _ _ => h⟩

end

/-- Settles O40: what one step can do (State.StepTo) tells each transition's event; the converse is what a command does,
and what step selection runs in a turn of the block. -/
theorem stateTransitionsAreTheListed : Obligations.StateTransitionsAreTheListed := by
  intro s t ht
  have h := step_to ht
  have hblock {u : State} (hturn : s.blockTurn) (hu : blockStep s.blockStart = .next u) : t = u :=
    Host.Outcome.next.inj (ht.symm.trans ((step_of_blockTurn hturn).trans hu))
  refine ⟨stateTransition_of_not_run h, stateTransition_to_idle h, stateTransition_to_done h,
    stateTransition_to_fault h,
    fun hhead => ?_, fun hrun hhead => ?_, fun hrun hhead => (h.of_command hhead).start_of_not_run hrun,
    fun hrun hhead => ?_, fun hrun hturn hfull => ?_, fun hrun hturn hmore hcodec hend hpolicy => ?_,
    fun hrun hturn hmore hraises => ?_⟩
  · cases h.of_command hhead with
    | resets => rfl
  · rcases (h.of_command hhead).state_cases hrun with ⟨hc, -⟩ | ⟨-, h⟩
    · cases hc
    · exact h
  · rcases (h.of_command hhead).state_cases hrun with ⟨-, h⟩ | ⟨hc, -⟩
    · exact h
    · exact absurd rfl hc
  · have hstep := blockStep_to ((step_of_blockTurn hturn).symm.trans ht)
    rw [hstep.eq_finish hrun hfull]
    rfl
  · obtain ⟨u, hu, hdone, -⟩ := blockStep_of_exhausted (s := s.blockStart) ⟨hrun, hcodec, hmore⟩ hend
    rw [hblock hturn hu]
    exact hdone hpolicy
  · obtain ⟨u, hu, hfault⟩ := blockStep_of_raises (s := s.blockStart) hrun hmore hraises
    rw [hblock hturn hu]
    exact hfault

/-! ## No turn of the block or of a command stops (R340) -/

/-- The model does not stop: the operation answers a next state. -/
def Res.Answers {α : Type} (r : Res α) : Prop := ∀ e, r ≠ .stop e

namespace Res.Answers

variable {α β : Type}

theorem ok (a : α) (t : State) : (Res.ok a t).Answers := nofun

theorem raise (c : Cause) (t : State) : (Machine.raise c t : Res α).Answers := nofun

theorem bind {r : Res α} {f : α → State → Res β} (h : r.Answers) (hf : ∀ a t, r = .ok a t → (f a t).Answers) :
    (r.bind f).Answers := by
  cases r with
  | ok a t => exact hf a t rfl
  | ended t => exact nofun
  | stop e => exact absurd rfl (h e)

theorem exists_next {r : Res Unit} (h : r.Answers) : ∃ t, r.toOutcome = .next t := by
  cases r with
  | ok a t => exact ⟨t, rfl⟩
  | ended t => exact ⟨t, rfl⟩
  | stop e => exact absurd rfl (h e)

end Res.Answers

theorem Res.KeepsStateOrRaises.answers {α : Type} {q : JobState} {r : Res α} (h : r.KeepsStateOrRaises q) :
    r.Answers := by
  cases h <;> nofun

section
variable {s t : State}

theorem blockHeader_answers (s : State) : (blockHeader s).Answers := by
  have h : (blockHeader s).KeepsStateOrRaises s.state :=
    (tSection_keepsStateOrRaises (s := blockCountPart s) rfl).bind fun _ _ ht =>
      (cSection_keepsStateOrRaises ht).bind fun _ _ ht => (pSection_keepsStateOrRaises ht).bind fun _ _ ht => .ok ht
  exact h.answers

/-- A match within an output whose bytes all have a value. -/
theorem matchSymbol_answers (c : Nat) (hle : s.outCount ≤ s.expandedSize)
    (hout : ∀ a, a < s.outCount.toNat → s.memRead .out a ≠ none) : (matchSymbol c s).Answers := by
  obtain ⟨d, u, e, n, f, rfl, -⟩ := distance_decodeTo s
  rw [matchSymbol, e, Res.bind_ok]
  dsimp only
  split_ifs with hoff
  · exact .raise _ _
  · obtain ⟨t, hcopy, -⟩ := copyBack_copiedTo (s := { s with bitpos := n, freeIx := f }) (Nat.succ_pos d)
      (matchLength c) (Nat.not_lt.mp hoff) hle hout
    exact hcopy ▸ .ok () t

theorem streamSymbol_answers (hle : s.outCount ≤ s.expandedSize) (hmore : s.outCount ≠ s.expandedSize)
    (hout : ∀ a, a < s.outCount.toNat → s.memRead .out a ≠ none) : (streamSymbol s).Answers := by
  obtain ⟨c, r, e, n, f, rfl, -⟩ := decodeSymbol_decodeTo .c s.countSymbol
  have hroom : s.outCount < s.expandedSize := Nat.lt_of_le_of_ne hle (mt BitVec.eq_of_toNat_eq hmore)
  rw [streamSymbol, e, Res.bind_ok]
  refine Res.Answers.bind ?_ fun _ _ _ => .ok _ _
  split_ifs
  · rw [literalSymbol, emit_eq_appended (s := { s.countSymbol with bitpos := n, freeIx := f }) _ hroom]
    exact .ok _ _
  · exact matchSymbol_answers (s := { s.countSymbol with bitpos := n, freeIx := f }) c hle hout

theorem fetchOrEnd_answers (place : EofPlace) (hin : s.inPos ≤ s.inLen) : (fetchOrEnd place s).Answers := by
  rcases fetchOrEnd_cases place s with ⟨-, -, e⟩ | ⟨-, -, e⟩ | ⟨-, e⟩ | ⟨hgt, -⟩
  · exact e ▸ .raise _ _
  · exact e ▸ nofun
  · exact e ▸ .ok _ _
  · exact absurd hin (BitVec.not_le.mpr hgt)

theorem fetchSecond_answers (hin : s.inPos ≤ s.inLen) : (fetchSecond s).Answers := by
  rcases fetchSecond_cases s with ⟨-, e⟩ | ⟨-, e⟩ | ⟨hgt, -⟩
  · exact e ▸ .raise _ _
  · exact e ▸ .ok _ _
  · exact absurd hin (BitVec.not_le.mpr hgt)

theorem copyRing_answers (f n k : Nat) (hle : s.outCount ≤ s.expandedSize) : (copyRing f n k s).Answers := by
  induction n generalizing k s with
  | zero => exact .ok () s
  | succ n ih =>
    unfold copyRing
    split_ifs with hfull
    · exact .ok () s
    have hroom : s.outCount < s.expandedSize := Nat.lt_of_le_of_ne hle (mt BitVec.eq_of_toNat_eq hfull)
    split
    · exact .raise _ _
    · next v _ =>
      rw [emitRing_eq_ringAppended v hroom, Res.bind_ok]
      have hnext := State.ringAppended_outCount_toNat v hroom
      refine ih (k + 1) ?_
      rw [BitVec.le_def, hnext, State.ringAppended_expandedSize]
      exact hroom

theorem State.TokenTo.inPos_le (h : s.TokenTo t) (hin : s.inPos ≤ s.inLen) : t.inPos ≤ t.inLen := by
  obtain ⟨p, c, l, rfl, -, hp, -⟩ := h
  exact hp hin

theorem controlByte_answers (hin : s.inPos ≤ s.inLen) : (controlByte s).Answers :=
  (fetchOrEnd_answers .ctrlByte hin).bind fun _ _ _ => .ok _ _

theorem literalToken_answers (hleft : s.ctrlLeft ≠ 0#4) (hin : s.inPos ≤ s.inLen)
    (hroom : s.outCount < s.expandedSize) : (literalToken s).Answers := by
  rw [literalToken_eq hleft]
  refine (fetchOrEnd_answers (s := s.bitTaken) .literal hin).bind fun v q e => ?_
  obtain ⟨p, c, l, rfl, -⟩ := (fetchOrEnd_ensures .literal (.refl s.bitTaken) rfl).of_ok e
  rw [emitRing_eq_ringAppended (s := { s.bitTaken with inPos := p, ctrl := c, ctrlLeft := l }) v hroom]
  exact .ok _ _

theorem matchToken_answers (hleft : s.ctrlLeft ≠ 0#4) (hin : s.inPos ≤ s.inLen) (hle : s.outCount ≤ s.expandedSize) :
    (matchToken s).Answers := by
  rw [matchToken_eq hleft]
  refine (fetchOrEnd_answers (s := s.bitTaken) .pairFirst hin).bind fun b0 q e => ?_
  have hq := (fetchOrEnd_ensures .pairFirst (.refl s.bitTaken) rfl).of_ok e
  refine (fetchSecond_answers (hq.inPos_le hin)).bind fun b1 r e => ?_
  obtain ⟨p, c, l, rfl, -⟩ := (fetchSecond_ensures hq).of_ok e
  exact copyRing_answers (s := { s.bitTaken with inPos := p, ctrl := c, ctrlLeft := l }) _ _ _ hle

theorem exists_blockStep (hlegal : s.runLegal) (hout : s.outWritten) : ∃ t, blockStep s = .next t := by
  unfold blockStep
  rcases s.selection_cases with ⟨-, e⟩ | ⟨-, -, -, e⟩ | ⟨-, -, -, -, e⟩ | ⟨hrun, -, hmore, -, e⟩ | ⟨hrun, -, -, -, e⟩ |
    ⟨hrun, -, hmore, hleft, -, e⟩ | ⟨hrun, -, -, hleft, -, e⟩ | ⟨hrun, hreserved, -⟩
  · exact ⟨s, by rw [e]⟩
  · exact ⟨_, by rw [e]⟩
  · rw [e]
    exact (blockHeader_answers s).exists_next
  · obtain ⟨-, hle, -⟩ := hlegal hrun
    rw [e]
    exact (streamSymbol_answers hle hmore fun a ha =>
      Option.isSome_iff_ne_none.mp ((hout (.inl hrun) a).mpr ha)).exists_next
  · obtain ⟨-, -, hin, -⟩ := hlegal hrun
    rw [e]
    exact (controlByte_answers hin).exists_next
  · obtain ⟨-, hle, hin, -⟩ := hlegal hrun
    rw [e]
    exact (literalToken_answers hleft hin (Nat.lt_of_le_of_ne hle (mt BitVec.eq_of_toNat_eq hmore))).exists_next
  · obtain ⟨-, hle, hin, -⟩ := hlegal hrun
    rw [e]
    exact (matchToken_answers hleft hin hle).exists_next
  · obtain ⟨hcodec, -⟩ := hlegal hrun
    cases hreserved.symm.trans hcodec

end

/-- Settles O56: EMIT has room, COPY reads written bytes, FETCH is within IN_LEN and TAKEBIT has a bit. -/
theorem blockNeverStops : Obligations.BlockNeverStops := by
  intro s hlegal hout hturn
  have hblock (h : s.blockTurn) : ∃ t, step s = .next t := by
    rw [step_of_blockTurn h]
    exact exists_blockStep (s := s.blockStart) hlegal hout
  rcases hturn with hnil | ⟨rest, hwait⟩ | ⟨c, rest, hcommand⟩
  · exact hblock (.inl hnil)
  · exact hblock (.inr (by rw [hwait, List.head?_cons]))
  · obtain ⟨t, ht, -⟩ := exists_commandTo c { s with host := rest }
    refine ⟨t, ?_⟩
    rw [step, turn, hcommand]
    exact ht

end Sys2Proof.Machine
end

section
/-! Proofs about the host's commands and accesses (45_host_commands.md): CMD.START, CMD.ABORT, writes and reads. -/

namespace Sys2Proof.Machine

section
variable {s : State}

/-! ## CMD.START and CMD.ABORT (R313, R314, R317) -/

theorem exec_cmdStart (s : State) : exec .cmdStart s = (startJob s).toOutcome := rfl

/-- R36: a ring that lists nothing reads as its job-start content. -/
theorem State.memRead_ring_of_nil (h : s.ringMem = []) (a : Nat) : s.memRead .ring a = s.params.ringFill := by
  have hload : s.memRead .ring a = Memory.load s.params.ringFill s.ringMem a := rfl
  rw [hload, h]
  rfl

/-- Settles O32: CMD.START is State.jobStart and then RUN, or the raise on a reserved CODEC. -/
theorem startInitialisesJob : Obligations.StartInitialisesJob := by
  intro s
  simp only [exec_cmdStart]
  refine ⟨fun hrun hcodec => ?_, fun hrun h3 h5 => ?_, fun hrun => ?_⟩
  · rw [startJob_of_codecLegal hrun (s.codecLegal_iff.mpr hcodec)]
    exact ⟨_, rfl, rfl, State.memRead_ring_of_nil rfl⟩
  · rw [startJob_of_codecReserved hrun (s.codecLegal_eq_false_iff.mpr ⟨h3, h5⟩)]
    exact ⟨_, rfl, by rw [BitVec.ofNat_toNat]; rfl, State.memRead_ring_of_nil rfl⟩
  · rw [startJob_of_run hrun, Res.toOutcome]

theorem exec_cmdAbort (s : State) : exec .cmdAbort s = .next (abortJob s) := rfl

/-- Settles O34: CMD.ABORT tests STATE alone. -/
theorem abortReturnsToIdle : Obligations.AbortReturnsToIdle := by
  intro s
  simp only [exec_cmdAbort]
  refine ⟨fun hrun => ?_, fun hrun => ?_⟩
  · rw [abortJob, if_pos hrun]
    exact ⟨_, rfl, rfl⟩
  · rw [abortJob, if_neg hrun]

/-- Settles O39: a turn takes the head of the host's list; with none, a quiescent block rests. -/
theorem stepRunsCommandOrRests : Obligations.StepRunsCommandOrRests := by
  intro s
  refine ⟨fun rest h => ?_, fun rest h => ?_, fun rest h => ?_, fun rest h => ?_, fun h => ⟨?_, fun hrun => ?_⟩⟩
  · rw [step, turn, h]
    rfl
  · rw [step, turn, h]
    rfl
  · rw [step, turn, h]
    rfl
  · rw [step, turn, h]
    rfl
  · exact step_of_no_host h
  · rw [step_of_no_host h, blockStep, State.selection, if_pos hrun]

/-! ## Host writes (R318, R392) -/

theorem step_of_access {a : HostAction} {rest : List HostAction} (hhost : s.host = a :: rest) (hwait : a ≠ .wait)
    (hcommand : ∀ c, a ≠ .command c) : step s = hostAccess a { s with host := rest } := by
  rcases step_cases s with ⟨h, -⟩ | ⟨_, h, -⟩ | ⟨c, _, h, -⟩ | ⟨b, rest', h, -, -, e⟩
  · cases hhost.symm.trans h
  · cases hhost.symm.trans h
    exact absurd rfl hwait
  · cases hhost.symm.trans h
    exact absurd rfl (hcommand c)
  · cases hhost.symm.trans h
    exact e

/-- Settles O35: each write is one case of the host access. -/
theorem hostWritesOnlyOutsideRun : Obligations.HostWritesOnlyOutsideRun := by
  intro s rest a hhost
  have hregister (w r : State) : hostWriteRegister r w = .next (if r.state = .run then r else w) := by
    unfold hostWriteRegister
    split_ifs <;> rfl
  refine ⟨?_, ?_, ?_, ?_, ?_, ?_⟩
  · rintro v rfl
    exact (step_of_access hhost nofun nofun).trans (hregister _ _)
  · rintro v rfl
    exact (step_of_access hhost nofun nofun).trans (hregister _ _)
  · rintro v rfl
    exact (step_of_access hhost nofun nofun).trans (hregister _ _)
  · rintro b v rfl hrun
    exact (step_of_access hhost nofun nofun).trans (if_pos hrun)
  · rintro b v rfl hrun hcanon
    refine ⟨_, (step_of_access hhost nofun nofun).trans (if_neg hrun), rfl, fun c => ?_⟩
    have hread := ({ s with host := rest } : State).memRead_memWrite .inn b.toNat v (hcanon .inn) .inn c
    simp only [true_and, eq_comm (b := c)] at hread
    exact hread
  · rintro b v rfl
    exact step_of_access hhost nofun nofun

/-! ## Host reads (R318) -/

/-- A read of what has a defined value. -/
theorem step_of_read_some {rest : List HostAction} {o : HostObject} {v : Nat} (hhost : s.host = .read o :: rest)
    (h : s.readable o = some v) : step s = .next { s with host := rest, hostData := v } := by
  have hne : o ≠ .internals := by
    rintro rfl
    cases h
  have hread : ({ s with host := rest } : State).readable o = some v := by
    rw [← h]
    cases o <;> rfl
  rw [step_of_access hhost nofun nofun, hostAccess, hostRead, if_neg hne, hread]
  rfl

/-- A read of what has none, and is accessible: a free value cut to the width. -/
theorem step_of_read_none {rest : List HostAction} {o : HostObject} (hhost : s.host = .read o :: rest)
    (hne : o ≠ .internals) (h : s.readable o = none) :
    step s = .next { s with
      host := rest, hostData := o.narrow (Config.unspecified s.freeIx), freeIx := s.freeIx + 1 } := by
  have hread : ({ s with host := rest } : State).readable o = none := by
    rw [← h]
    cases o <;> rfl
  rw [step_of_access hhost nofun nofun, hostAccess, hostRead, if_neg hne, hread]
  rfl

/-- The width of what is read, where it has one (10_state.md R21, R22). -/
def HostObject.width : HostObject → Option Nat
  | .codec => some 3
  | .inLen => some 32
  | .expandedSize => some 32
  | .state => some 2
  | .outCount => some 32
  | .faultCode => some 3
  | .faultSub => some 4
  | .faultInfo => some 32
  | .bitpos => none
  | .inPos => some 32
  | .inByte _ => some 8
  | .outByte _ => some 8
  | .internals => none

theorem HostObject.narrow_lt {o : HostObject} {w : Nat} (h : o.width = some w) (v : Nat) : o.narrow v < 2 ^ w := by
  cases o <;> cases h <;> exact Nat.mod_lt _ (by decide)

theorem State.readable_of_ne_run (hrun : s.state ≠ .run) :
    s.readable .outCount = some s.outCount.toNat ∧ s.readable .faultCode = some s.faultCode.toNat ∧
      s.readable .faultSub = some s.faultSub.toNat ∧ s.readable .faultInfo = some s.faultInfo.toNat :=
  ⟨if_neg hrun, if_neg hrun, if_neg hrun, if_neg hrun⟩

theorem State.readable_of_run (hrun : s.state = .run) :
    s.readable .outCount = none ∧ s.readable .faultCode = none ∧ s.readable .faultSub = none ∧
      s.readable .faultInfo = none :=
  ⟨if_pos hrun, if_pos hrun, if_pos hrun, if_pos hrun⟩

theorem State.readable_cursors (h : ¬ (s.state = .run ∨ s.state = .fault)) :
    s.readable .bitpos = some s.bitpos ∧ s.readable .inPos = some s.inPos.toNat :=
  ⟨if_neg h, if_neg h⟩

theorem State.readable_cursors_none (h : s.state = .run ∨ s.state = .fault) :
    s.readable .bitpos = none ∧ s.readable .inPos = none :=
  ⟨if_pos h, if_pos h⟩

theorem State.readable_inByte {a : Word} {b : Byte} (ha : a < s.inLen) (hb : s.memRead .inn a.toNat = some b) :
    s.readable (.inByte a) = some b.toNat := by
  rw [State.readable, if_pos ha, hb, Option.map_some]

theorem State.readable_outByte {a : Word} {b : Byte} (hdone : s.state = .done) (ha : a < s.outCount)
    (hb : s.memRead .out a.toNat = some b) : s.readable (.outByte a) = some b.toNat := by
  rw [State.readable, if_pos ⟨hdone, ha⟩, hb, Option.map_some]

end

section
variable {s : State} {o : HostObject}

/-- What R318 makes readable. -/
theorem State.readable_of_defined {v : Nat}
    (h : (o = .codec ∧ v = s.codec.toNat) ∨ (o = .inLen ∧ v = s.inLen.toNat) ∨
      (o = .expandedSize ∧ v = s.expandedSize.toNat) ∨
      (o = .state ∧ ((s.state = .idle ∧ v = 0) ∨ (s.state = .run ∧ v = 1) ∨ (s.state = .done ∧ v = 2) ∨
        (s.state = .fault ∧ v = 3))) ∨
      (s.state ≠ .run ∧ ((o = .outCount ∧ v = s.outCount.toNat) ∨ (o = .faultCode ∧ v = s.faultCode.toNat) ∨
        (o = .faultSub ∧ v = s.faultSub.toNat) ∨ (o = .faultInfo ∧ v = s.faultInfo.toNat))) ∨
      ((s.state = .idle ∨ s.state = .done) ∧
        ((o = .bitpos ∧ v = s.bitpos) ∨ (o = .inPos ∧ v = s.inPos.toNat))) ∨
      (∃ (a : Word) (b : Byte), o = .inByte a ∧ a < s.inLen ∧ s.memRead .inn a.toNat = some b ∧ v = b.toNat) ∨
      (∃ (a : Word) (b : Byte), o = .outByte a ∧ s.state = .done ∧ a < s.outCount ∧
        s.memRead .out a.toNat = some b ∧ v = b.toNat)) : s.readable o = some v := by
  rcases h with ⟨rfl, rfl⟩ | ⟨rfl, rfl⟩ | ⟨rfl, rfl⟩ | ⟨rfl, h⟩ | ⟨hrun, h⟩ | ⟨hstate, h⟩ | ⟨a, b, rfl, ha, hb, rfl⟩ |
    ⟨a, b, rfl, hdone, ha, hb, rfl⟩
  · rfl
  · rfl
  · rfl
  · rcases h with ⟨h, rfl⟩ | ⟨h, rfl⟩ | ⟨h, rfl⟩ | ⟨h, rfl⟩ <;> rw [State.readable, h] <;> rfl
  · obtain ⟨hcount, hcode, hsub, hinfo⟩ := State.readable_of_ne_run hrun
    rcases h with ⟨rfl, rfl⟩ | ⟨rfl, rfl⟩ | ⟨rfl, rfl⟩ | ⟨rfl, rfl⟩
    · exact hcount
    · exact hcode
    · exact hsub
    · exact hinfo
  · obtain ⟨hbit, hin⟩ := State.readable_cursors (s := s) (by rcases hstate with h | h <;> rw [h] <;> decide)
    rcases h with ⟨rfl, rfl⟩ | ⟨rfl, rfl⟩
    · exact hbit
    · exact hin
  · exact State.readable_inByte ha hb
  · exact State.readable_outByte hdone ha hb

/-- What R318 leaves unspecified, with its width. -/
theorem State.readable_of_unspecified {w : Nat}
    (h : (s.state = .run ∧ ((o = .outCount ∧ w = 32) ∨ (o = .faultCode ∧ w = 3) ∨ (o = .faultSub ∧ w = 4) ∨
        (o = .faultInfo ∧ w = 32))) ∨
      ((s.state = .run ∨ s.state = .fault) ∧ o = .inPos ∧ w = 32) ∨
      (∃ a : Word, o = .inByte a ∧ s.inLen ≤ a ∧ w = 8) ∨
      (∃ a : Word, o = .outByte a ∧ (s.state ≠ .done ∨ s.outCount ≤ a) ∧ w = 8)) :
    s.readable o = none ∧ o.width = some w := by
  rcases h with ⟨hrun, h⟩ | ⟨hstate, rfl, rfl⟩ | ⟨a, rfl, ha, rfl⟩ | ⟨a, rfl, ha, rfl⟩
  · obtain ⟨hcount, hcode, hsub, hinfo⟩ := State.readable_of_run hrun
    rcases h with ⟨rfl, rfl⟩ | ⟨rfl, rfl⟩ | ⟨rfl, rfl⟩ | ⟨rfl, rfl⟩
    · exact ⟨hcount, rfl⟩
    · exact ⟨hcode, rfl⟩
    · exact ⟨hsub, rfl⟩
    · exact ⟨hinfo, rfl⟩
  · obtain ⟨-, hin⟩ := State.readable_cursors_none hstate
    exact ⟨hin, rfl⟩
  · exact ⟨if_neg (BitVec.not_lt.mpr ha), rfl⟩
  · refine ⟨if_neg fun ⟨hdone, hlt⟩ => ?_, rfl⟩
    rcases ha with hne | hle
    · exact hne hdone
    · exact BitVec.not_lt.mpr hle hlt

end

/-- Settles O36: R318's table is State.readable, and a free value is cut to the width of what is read. -/
theorem hostReadsWhatIsReadable : Obligations.HostReadsWhatIsReadable := by
  intro s rest o hhost
  refine ⟨fun v h => step_of_read_some hhost (State.readable_of_defined h), fun w h => ?_, fun hstate ho => ?_,
    fun ho => ?_⟩
  · obtain ⟨hnone, hwidth⟩ := State.readable_of_unspecified h
    have hne : o ≠ .internals := by
      rintro rfl
      cases hwidth
    exact ⟨_, HostObject.narrow_lt hwidth _, step_of_read_none hhost hne hnone⟩
  · subst ho
    obtain ⟨hnone, -⟩ := State.readable_cursors_none hstate
    exact ⟨_, step_of_read_none hhost nofun hnone⟩
  · subst ho
    exact step_of_access hhost nofun nofun

end Sys2Proof.Machine
end

section
/-! Two runs of one job (45_host_commands.md R320, 70_reset_and_hazards.md R380): no operation of a job reads the table
units that are not in use, or the model's own fields. -/

namespace Sys2Proof.Machine

/-! ## The fields no operation of a job tells apart -/

/-- State s with the table units and the model's own fields of r. -/
def State.withHidden (s r : State) : State :=
  { s with
    tabT := r.tabT, tabC := r.tabC, tabP := r.tabP, host := r.host, hostData := r.hostData, freeIx := r.freeIx
    unitResult := r.unitResult, lenIndex := r.lenIndex }

/-- States s and t are equal but for those fields, and the units X of both are the same for a job that uses the built
table X where used X is true. -/
def State.Alike (used : Alphabet → Bool) (s t : State) : Prop :=
  t = s.withHidden t ∧ ∀ x, (s.unit x).sameFor (used x) (t.unit x)

/-- The tables a running job uses (R33). -/
def State.used (s : State) : Alphabet → Bool
  | .t => false
  | .c => s.tablesInUse
  | .p => s.tablesInUse

theorem State.unit_withHidden (r s : State) (x : Alphabet) : (s.withHidden r).unit x = r.unit x := by
  cases x <;> rfl

theorem State.peek_withHidden (r s : State) (n : Nat) : (s.withHidden r).peek n = s.peek n := by
  rw [State.peek_eq_fieldValue, State.peek_eq_fieldValue]
  rfl

theorem TableUnit.sameFor.mono {b b' : Bool} {u v : TableUnit} (h : u.sameFor b v) (hb : b' = true → b = true) :
    u.sameFor b' v := by
  obtain ⟨hV, hsym, huse⟩ := h
  exact ⟨hV, hsym, fun hb' => huse (hb hb')⟩

theorem TableUnit.sameFor_refl (b : Bool) (u : TableUnit) : u.sameFor b u := ⟨rfl, rfl, fun _ _ => rfl⟩

theorem State.sameJob_iff (s t : State) : s.sameJob t ↔ s.Alike s.used t := by
  constructor
  · rintro ⟨hparams, hcodec, hinLen, hsize, hstate, hcount, hcode, hsub, hinfo, hbit, hin, hphase, hblock, hctrl, hleft,
      hringW, hinn, hout, hring, hT, hC, hP⟩
    refine ⟨?_, fun x => ?_⟩
    · rw [State.withHidden, hparams, hcodec, hinLen, hsize, hstate, hcount, hcode, hsub, hinfo, hbit, hin, hphase,
        hblock, hctrl, hleft, hringW, hinn, hout, hring]
    · cases x with
      | t => exact hT
      | c => exact hC
      | p => exact hP
  · rintro ⟨ht, hunits⟩
    rw [ht]
    exact ⟨rfl, rfl, rfl, rfl, rfl, rfl, rfl, rfl, rfl, rfl, rfl, rfl, rfl, rfl, rfl, rfl, rfl, rfl, rfl, hunits .t,
      hunits .c, hunits .p⟩

namespace State.Alike

variable {used used' : Alphabet → Bool} {s t : State} {x : Alphabet}

theorem mono (h : Alike used s t) (hused : ∀ x, used' x = true → used x = true) : Alike used' s t := by
  obtain ⟨ht, hunits⟩ := h
  exact ⟨ht, fun x => (hunits x).mono (hused x)⟩

theorem unused (h : Alike used s t) : Alike (fun _ => false) s t := h.mono fun _ => nofun

theorem peek (h : Alike used s t) (n : Nat) : t.peek n = s.peek n := by
  obtain ⟨ht, -⟩ := h
  rw [ht, State.peek_withHidden]

theorem consume (h : Alike used s t) (n : Nat) : Alike used (s.consume n) (t.consume n) := by
  obtain ⟨ht, hunits⟩ := h
  refine ⟨congrArg (State.consume · n) ht, fun x => ?_⟩
  rw [State.unit_consume, State.unit_consume]
  exact hunits x

theorem faulted (h : Alike used s t) (cause : Cause) : Alike used (s.faulted cause) (t.faulted cause) := by
  obtain ⟨ht, hunits⟩ := h
  refine ⟨congrArg (State.faulted · cause) ht, fun x => ?_⟩
  rw [State.unit_faulted, State.unit_faulted]
  exact hunits x

theorem setUnit (h : Alike used s t) {b : Bool} {u v : TableUnit} (huv : u.sameFor b v) :
    Alike (Function.update used x b) (s.setUnit x u) (t.setUnit x v) := by
  obtain ⟨ht, hunits⟩ := h
  refine ⟨?_, fun y => ?_⟩
  · rw [ht]
    cases x <;> rfl
  · by_cases hxy : x = y
    · subst hxy
      rwa [State.unit_setUnit_same, State.unit_setUnit_same, Function.update_self]
    · rw [State.unit_setUnit_other s u hxy, State.unit_setUnit_other t v hxy, Function.update_of_ne (Ne.symm hxy)]
      exact hunits y

theorem clearLens (h : Alike used s t) (x : Alphabet) :
    Alike (Function.update used x false) (s.clearLens x) (t.clearLens x) := by
  obtain ⟨hV, hsym, -⟩ := h.2 x
  exact h.setUnit ⟨hV, hsym, nofun⟩

theorem blockCountPart (h : Alike used s t) : Alike used (blockCountPart s) (blockCountPart t) := by
  obtain ⟨ht, hunits⟩ := h
  refine ⟨?_, fun x => ?_⟩
  · rw [blockCountPart_eq, blockCountPart_eq, ht]
    rfl
  · have hx := hunits x
    cases x <;> exact hx

theorem streaming (h : Alike used s t) : Alike used { s with phase := .streaming } { t with phase := .streaming } := by
  obtain ⟨ht, hunits⟩ := h
  refine ⟨?_, fun x => ?_⟩
  · rw [ht]
    rfl
  · have hx := hunits x
    cases x <;> exact hx

theorem finish (h : Alike used s t) : Alike used s.finish t.finish := by
  obtain ⟨ht, hunits⟩ := h
  refine ⟨congrArg State.finish ht, fun x => ?_⟩
  have hx := hunits x
  cases x <;> exact hx

end State.Alike

/-! ## Results of two runs -/

/-- Both results go on with the same value, or both end, in states that are related, or both stop. -/
inductive Res.Related {α : Type} (E : State → State → Prop) (R : State → State → Prop) : Res α → Res α → Prop
  | ok {a : α} {s t : State} (h : R s t) : Related E R (.ok a s) (.ok a t)
  | ended {s t : State} (h : E s t) : Related E R (.ended s) (.ended t)
  | stop (e : Fault) : Related E R (.stop e) (.stop e)

namespace Res.Related

variable {α β : Type} {E R Q : State → State → Prop}

theorem raise {s t : State} (cause : Cause) (h : E (s.faulted cause) (t.faulted cause)) :
    (Machine.raise cause s : Res α).Related E R (Machine.raise cause t) := .ended h

/-- The second part runs in states the first part of the first run can go on with. -/
theorem bind {r r' : Res α} {f : α → State → Res β} {E' : State → Prop} {P : α → State → Prop} (h : r.Related E R r')
    (hP : r.Ensures E' P) (hf : ∀ a s t, R s t → P a s → (f a s).Related E Q (f a t)) :
    (r.bind f).Related E Q (r'.bind f) := by
  cases h with
  | ok h => exact hf _ _ _ h (hP.of_ok rfl)
  | ended h => exact .ended h
  | stop e => exact .stop e

theorem exists_next {r r' : Res Unit} {s : State} (h : r.Related E R r') (hs : r.toOutcome = .next s) :
    ∃ t, r'.toOutcome = .next t ∧ ((r = .ok () s ∧ R s t) ∨ (r = .ended s ∧ E s t)) := by
  cases h with
  | ok h =>
    obtain rfl := Host.Outcome.next.inj hs
    exact ⟨_, rfl, .inl ⟨rfl, h⟩⟩
  | ended h =>
    obtain rfl := Host.Outcome.next.inj hs
    exact ⟨_, rfl, .inr ⟨rfl, h⟩⟩
  | stop e => cases hs

end Res.Related

/-- The result with its state changed by g. -/
def Res.mapState {α : Type} (g : State → State) : Res α → Res α
  | .ok a s => .ok a (g s)
  | .ended s => .ended (g s)
  | .stop e => .stop e

section
variable {α β : Type} {g : State → State}

theorem Res.mapState_bind {r : Res α} {f : α → State → Res β}
    (hf : ∀ a s, r = .ok a s → f a (g s) = (f a s).mapState g) : (r.mapState g).bind f = (r.bind f).mapState g := by
  cases r with
  | ok a s => exact hf a s rfl
  | ended s => rfl
  | stop e => rfl

theorem Res.mapState_ite {c : Prop} [Decidable c] (a b : Res α) :
    (if c then a else b).mapState g = if c then a.mapState g else b.mapState g :=
  apply_ite _ _ _ _

theorem Res.toOutcome_mapState {r : Res Unit} {s : State} (h : r.toOutcome = .next s) :
    (r.mapState g).toOutcome = .next (g s) := by
  rcases Res.toOutcome_eq_next.mp h with rfl | rfl <;> rfl

end

/-! ## DECODE of a table in use (R170) -/

/-- A table in use that decodes gives the same symbol with the same bits in both runs, and no free one. -/
theorem decodeSymbol_of_sameFor {x : Alphabet} {s t : State} (hpeek : t.peek 16 = s.peek 16)
    (hsame : (s.unit x).sameFor true (t.unit x)) (hdecodes : (s.unit x).decodes x) :
    ∃ v k, decodeSymbol x s = .ok v (s.consume k) ∧ decodeSymbol x t = .ok v (t.consume k) := by
  obtain ⟨hV, hsym, huse⟩ := hsame
  rcases decodeSymbol_cases x s with ⟨hconst, e⟩ | ⟨hbuilt, v, hv, e⟩ | ⟨hbuilt, hnone, -⟩
  · refine ⟨_, 0, e, ?_⟩
    rw [hsym]
    exact if_pos (hV ▸ hconst)
  · refine ⟨v, _, e, ?_⟩
    have heq := huse rfl hbuilt
    rw [heq] at hbuilt hv ⊢
    rw [← hpeek] at hv
    rw [decodeSymbol, hbuilt, decodeBuilt, hv]
    rfl
  · exact absurd hdecodes (not_decodes_of_symbolAt_none hbuilt hnone)

theorem decodeSymbol_withHidden {x : Alphabet} {r s : State} (hsame : (s.unit x).sameFor true (r.unit x))
    (hdecodes : (s.unit x).decodes x) :
    decodeSymbol x (s.withHidden r) = (decodeSymbol x s).mapState (State.withHidden · r) := by
  rw [← State.unit_withHidden r s] at hsame
  obtain ⟨v, k, hs, ht⟩ := decodeSymbol_of_sameFor (State.peek_withHidden r s 16) hsame hdecodes
  rw [hs, ht]
  rfl

/-! ## The operations of LZSS and of Streaming -/

section
variable (r s : State)

theorem takeBit_withHidden : takeBit (s.withHidden r) = (takeBit s).mapState (State.withHidden · r) := by
  rw [takeBit, takeBit, Res.mapState_ite]
  rfl

theorem fetchByte_withHidden : fetchByte (s.withHidden r) = (fetchByte s).mapState (State.withHidden · r) := by
  rw [fetchByte, fetchByte, Res.mapState_ite, Res.mapState_ite]
  rfl

theorem fetchOrEnd_withHidden (place : EofPlace) :
    fetchOrEnd place (s.withHidden r) = (fetchOrEnd place s).mapState (State.withHidden · r) := by
  rw [fetchOrEnd, fetchByte_withHidden]
  refine Res.mapState_bind fun b t _ => ?_
  cases b with
  | some v => rfl
  | none =>
    have hpolicy : (t.withHidden r).params = t.params := rfl
    dsimp only
    rw [endOfInput, endOfInput, hpolicy]
    cases t.params.eofPolicy <;> rfl

theorem fetchSecond_withHidden : fetchSecond (s.withHidden r) = (fetchSecond s).mapState (State.withHidden · r) := by
  rw [fetchSecond, fetchByte_withHidden]
  refine Res.mapState_bind fun b t _ => ?_
  cases b <;> rfl

theorem emit_withHidden (v : Byte) : emit v (s.withHidden r) = (emit v s).mapState (State.withHidden · r) := by
  rw [emit, emit, Res.mapState_ite]
  rfl

theorem emitRing_withHidden (v : Byte) :
    emitRing v (s.withHidden r) = (emitRing v s).mapState (State.withHidden · r) := by
  rw [emitRing, emit_withHidden]
  exact Res.mapState_bind fun _ _ _ => rfl

theorem copyRing_withHidden (f n k : Nat) :
    copyRing f n k (s.withHidden r) = (copyRing f n k s).mapState (State.withHidden · r) := by
  induction n generalizing k s with
  | zero => rfl
  | succ n ih =>
    have hread : (s.withHidden r).memRead .ring (ringIndex f k) = s.memRead .ring (ringIndex f k) := rfl
    rw [copyRing, copyRing, Res.mapState_ite, hread]
    refine if_congr Iff.rfl rfl ?_
    cases s.memRead .ring (ringIndex f k) with
    | none => rfl
    | some v =>
      dsimp only
      rw [emitRing_withHidden]
      exact Res.mapState_bind fun _ t _ => ih t (k + 1)

theorem controlByte_withHidden : controlByte (s.withHidden r) = (controlByte s).mapState (State.withHidden · r) := by
  rw [controlByte, fetchOrEnd_withHidden]
  exact Res.mapState_bind fun _ _ _ => rfl

theorem literalToken_withHidden :
    literalToken (s.withHidden r) = (literalToken s).mapState (State.withHidden · r) := by
  rw [literalToken, takeBit_withHidden]
  refine Res.mapState_bind fun _ t _ => ?_
  rw [fetchOrEnd_withHidden]
  exact Res.mapState_bind fun v u _ => emitRing_withHidden r u v

theorem matchToken_withHidden : matchToken (s.withHidden r) = (matchToken s).mapState (State.withHidden · r) := by
  rw [matchToken, takeBit_withHidden]
  refine Res.mapState_bind fun _ t _ => ?_
  rw [fetchOrEnd_withHidden]
  refine Res.mapState_bind fun b0 u _ => ?_
  rw [fetchSecond_withHidden]
  exact Res.mapState_bind fun b1 q _ => copyRing_withHidden r q _ _ 0

theorem copyBack_withHidden (offset k : Nat) :
    copyBack offset k (s.withHidden r) = (copyBack offset k s).mapState (State.withHidden · r) := by
  induction k generalizing s with
  | zero => rfl
  | succ k ih =>
    have hread : (s.withHidden r).memRead .out ((s.withHidden r).outCount.toNat - offset) =
        s.memRead .out (s.outCount.toNat - offset) := rfl
    rw [copyBack, copyBack, Res.mapState_ite, hread]
    refine if_congr Iff.rfl rfl ?_
    cases s.memRead .out (s.outCount.toNat - offset) with
    | none => rfl
    | some v =>
      dsimp only
      rw [emit_withHidden]
      exact Res.mapState_bind fun _ t _ => ih t

end

section
variable {r s : State}

theorem matchSymbol_withHidden (c : Nat) (hsame : (s.unit .p).sameFor true (r.unit .p))
    (hdecodes : (s.unit .p).decodes .p) :
    matchSymbol c (s.withHidden r) = (matchSymbol c s).mapState (State.withHidden · r) := by
  have hdistance : distance (s.withHidden r) = (distance s).mapState (State.withHidden · r) := by
    rw [distance, decodeSymbol_withHidden hsame hdecodes]
    refine Res.mapState_bind fun p t _ => ?_
    rw [Res.mapState_ite, getBits, getBits, State.peek_withHidden]
    rfl
  rw [matchSymbol, hdistance]
  refine Res.mapState_bind fun d t _ => ?_
  dsimp only
  rw [Res.mapState_ite]
  exact if_congr Iff.rfl rfl (copyBack_withHidden r t _ _)

theorem streamSymbol_withHidden (hC : (s.unit .c).sameFor true (r.unit .c)) (hdecC : (s.unit .c).decodes .c)
    (hP : (s.unit .p).sameFor true (r.unit .p)) (hdecP : (s.unit .p).decodes .p) :
    streamSymbol (s.withHidden r) = (streamSymbol s).mapState (State.withHidden · r) := by
  have hdecode := decodeSymbol_withHidden (x := .c) (r := r) (s := s.countSymbol) hC hdecC
  rw [streamSymbol, show (s.withHidden r).countSymbol = s.countSymbol.withHidden r from rfl, hdecode]
  refine Res.mapState_bind fun c t ht => ?_
  obtain ⟨v, u, e, hunit, -⟩ := decodeSymbol_frame .c s.countSymbol
  cases ht.symm.trans e
  have hPt : t.unit .p = s.unit .p := hunit .p
  have hsymbol : (if c < Config.litLimit then literalSymbol c (t.withHidden r) else matchSymbol c (t.withHidden r)) =
      (if c < Config.litLimit then literalSymbol c t else matchSymbol c t).mapState (State.withHidden · r) := by
    rw [Res.mapState_ite]
    refine if_congr Iff.rfl (emit_withHidden r t _) (matchSymbol_withHidden c ?_ ?_)
    · rwa [hPt]
    · rwa [hPt]
  rw [hsymbol]
  refine Res.mapState_bind fun _ q _ => ?_
  rw [State.endBlock_eq, State.endBlock_eq]
  rfl

end

end Sys2Proof.Machine
end

section
/-! Two runs of one job (45_host_commands.md R320, 70_reset_and_hazards.md R380): the block header, which makes the
tables anew, and the step. -/

namespace Sys2Proof.Machine

/-! ## Inside a section: equal lengths, stale tables -/

/-- State s in X's section, with the hidden fields of r but for LEN_X and CONST_X: the table, the nodes and AVAIL_X are
those of r. -/
def State.withStale (s : State) (x : Alphabet) (r : State) : State :=
  s.withHidden (r.setUnit x
    { r.unit x with len := (s.unit x).len, constV := (s.unit x).constV, constSym := (s.unit x).constSym })

section
variable {x : Alphabet} {r s : State}

theorem State.unit_withStale_same :
    (s.withStale x r).unit x =
      { r.unit x with len := (s.unit x).len, constV := (s.unit x).constV, constSym := (s.unit x).constSym } := by
  rw [State.withStale, State.unit_withHidden, State.unit_setUnit_same]

theorem State.unit_withStale_other {y : Alphabet} (hxy : x ≠ y) : (s.withStale x r).unit y = r.unit y := by
  rw [State.withStale, State.unit_withHidden, State.unit_setUnit_other _ _ hxy]

theorem State.peek_withStale (n : Nat) : (s.withStale x r).peek n = s.peek n :=
  State.peek_withHidden _ s n

theorem State.consume_withStale (n : Nat) : (s.withStale x r).consume n = (s.consume n).withStale x r := by
  cases x <;> rfl

theorem State.faulted_withStale (cause : Cause) :
    (s.withStale x r).faulted cause = (s.faulted cause).withStale x r := by
  cases x <;> rfl

theorem State.setLen_withStale (i l : Nat) : (s.withStale x r).setLen x i l = (s.setLen x i l).withStale x r := by
  cases x <;> rfl

theorem raise_withStale {α : Type} (cause : Cause) :
    (raise cause (s.withStale x r) : Res α) = (raise cause s : Res α).mapState (State.withStale · x r) :=
  congrArg Res.ended (State.faulted_withStale cause)

theorem lengthCode_withStale :
    lengthCode (s.withStale x r) = (lengthCode s).mapState (State.withStale · x r) := by
  rw [lengthCode, lengthCode, Res.mapState_ite, State.peek_withStale, State.consume_withStale, raise_withStale]
  rfl

theorem tLengths_withStale (n fuel i : Nat) :
    tLengths n fuel i (s.withStale .t r) = (tLengths n fuel i s).mapState (State.withStale · .t r) := by
  induction fuel generalizing i s with
  | zero => rfl
  | succ fuel ih =>
    rw [tLengths, tLengths, Res.mapState_ite]
    refine if_congr Iff.rfl ?_ rfl
    rw [lengthCode_withStale]
    refine Res.mapState_bind fun l t _ => ?_
    dsimp only
    rw [Res.mapState_ite, State.setLen_withStale, ih]
    refine if_congr Iff.rfl ?_ rfl
    rw [skipRun, skipRun, getBits, getBits, State.peek_withStale, State.consume_withStale]
    exact ih _

theorem pLengths_withStale (rem i : Nat) :
    pLengths rem i (s.withStale .p r) = (pLengths rem i s).mapState (State.withStale · .p r) := by
  induction rem generalizing i s with
  | zero => rfl
  | succ rem ih =>
    rw [pLengths, pLengths, lengthCode_withStale]
    refine Res.mapState_bind fun l t _ => ?_
    rw [State.setLen_withStale]
    exact ih _

theorem zeroRun_withStale (i run : Nat) :
    zeroRun i run (s.withStale x r) = (zeroRun i run s).mapState (State.withStale · x r) := by
  rw [zeroRun, zeroRun, Res.mapState_ite, raise_withStale]
  rfl

theorem cItem_withStale (v i : Nat) :
    cItem v i (s.withStale .c r) = (cItem v i s).mapState (State.withStale · .c r) := by
  have hrun (bits bias : Nat) : zeroRun i ((s.withStale .c r).peek bits + bias) ((s.withStale .c r).consume bits) =
      (zeroRun i (s.peek bits + bias) (s.consume bits)).mapState (State.withStale · .c r) := by
    rw [State.peek_withStale, State.consume_withStale, zeroRun_withStale]
  rw [cItem, cItem, Res.mapState_ite, Res.mapState_ite, Res.mapState_ite]
  exact if_congr Iff.rfl (zeroRun_withStale i 1) (if_congr Iff.rfl (hrun _ _) (if_congr Iff.rfl (hrun _ _) rfl))

/-- The C section is read with table T, which is in use and decodes. -/
theorem cLengths_withStale (n fuel i : Nat) (hsame : (s.unit .t).sameFor true (r.unit .t))
    (hdecodes : (s.unit .t).decodes .t) :
    cLengths n fuel i (s.withStale .c r) = (cLengths n fuel i s).mapState (State.withStale · .c r) := by
  induction fuel generalizing i s with
  | zero => rfl
  | succ fuel ih =>
    rw [cLengths, cLengths, Res.mapState_ite]
    refine if_congr Iff.rfl ?_ rfl
    obtain ⟨v, k, hs, ht⟩ := decodeSymbol_of_sameFor (t := s.withStale .c r) (State.peek_withStale 16) hsame hdecodes
    rw [hs, ht, Res.bind_ok, Res.bind_ok, State.consume_withStale, cItem_withStale]
    refine Res.mapState_bind fun j t hj => ?_
    have hkept : t.unit .t = s.unit .t := ((cItem_sectionTo v i (.refl (s.consume k))).of_ok hj).unit_other nofun
    exact ih j (hkept ▸ hsame) (hkept ▸ hdecodes)

theorem lengthLoop_withStale (n : Nat)
    (hT : x = .c → (s.unit .t).sameFor true (r.unit .t) ∧ (s.unit .t).decodes .t) :
    lengthLoop x n (s.withStale x r) = (lengthLoop x n s).mapState (State.withStale · x r) := by
  cases x with
  | t => exact tLengths_withStale n n 0
  | p => exact pLengths_withStale n 0
  | c =>
    obtain ⟨hsame, hdecodes⟩ := hT rfl
    exact cLengths_withStale n n 0 hsame hdecodes

/-- HT.BUILD clears what is stale, so both runs build one and the same unit. -/
theorem cleared_withStale : ((s.withStale x r).unit x).cleared x = (s.unit x).cleared x := by
  rw [State.unit_withStale_same]
  rfl

theorem lens_withStale : ((s.withStale x r).unit x).lens = (s.unit x).lens := by
  rw [State.unit_withStale_same]
  rfl

end

/-! ## A section -/

section
variable {used : Alphabet → Bool} {x : Alphabet} {s t r : State}

/-- With equal lengths in X, the second of two states that are alike is the first with stale tables. -/
theorem State.Alike.eq_withStale (h : s.Alike used t) (hlen : (s.unit x).len = (t.unit x).len) :
    t = s.withStale x t := by
  obtain ⟨ht, hunits⟩ := h
  obtain ⟨hV, hsym, -⟩ := hunits x
  rw [State.withStale, hlen, hV, hsym, State.setUnit_unit]
  exact ht

/-- What a section has come to in both runs is alike but for X, which is not in use. -/
theorem State.Alike.withStale (h : s.Alike used r) {u : State} (hu : s.SectionTo x u) :
    u.Alike (Function.update used x false) (u.withStale x r) := by
  obtain ⟨-, hunits⟩ := h
  refine ⟨by cases x <;> rfl, fun y => ?_⟩
  by_cases hxy : x = y
  · subst hxy
    rw [State.unit_withStale_same, Function.update_self]
    exact ⟨rfl, rfl, nofun⟩
  · rw [State.unit_withStale_other hxy, Function.update_of_ne (Ne.symm hxy), hu.unit_other hxy]
    exact hunits y

theorem constTable_related (c : Nat) (h : s.Alike used t) :
    (constTable x c s).Related (State.Alike fun _ => false) (State.Alike (Function.update used x true))
      (constTable x c t) := by
  rcases constTable_cases x c s with ⟨hlt, hs⟩ | ⟨hle, hs⟩ <;>
    rcases constTable_cases x c t with ⟨hlt', ht⟩ | ⟨hle', ht⟩
  · rw [hs, ht]
    exact .ok (h.setUnit ⟨rfl, rfl, nofun⟩)
  · omega
  · omega
  · rw [hs, ht]
    exact .raise _ (h.faulted _).unused

theorem buildTable_related (h : s.Alike used (s.withStale x r)) :
    (buildTable x s).Related (State.Alike fun _ => false) (State.Alike (Function.update used x true))
      (buildTable x (s.withStale x r)) := by
  have hset (u : TableUnit) := h.setUnit (x := x) (TableUnit.sameFor_refl true u)
  rw [buildTable, buildTable, cleared_withStale, lens_withStale]
  cases lengthAbove16 (s.unit x).lens with
  | some l => exact .raise _ (h.faulted _).unused
  | none =>
    dsimp only
    split_ifs
    · exact .raise _ (h.faulted _).unused
    · cases assignAll x (s.unit x).lens 0 (startOffsets (s.unit x).lens) ((s.unit x).cleared x) with
      | error u => exact .raise _ ((hset u).faulted _).unused
      | ok u => exact .ok (hset u)

/-- The loop over the length codes and then HT.BUILD, in states alike: the loop keeps their lengths equal. -/
theorem lengthLoop_build_related (n : Nat) (h : s.Alike used t)
    (hT : x = .c → used .t = true ∧ (s.unit .t).decodes .t) :
    ((lengthLoop x n (s.clearLens x)).bind fun _ u => buildTable x u).Related (State.Alike fun _ => false)
      (State.Alike (Function.update used x true))
      ((lengthLoop x n (t.clearLens x)).bind fun _ u => buildTable x u) := by
  have hclear := h.clearLens x
  have hstale : t.clearLens x = (s.clearLens x).withStale x (t.clearLens x) :=
    hclear.eq_withStale (by rw [State.unit_clearLens_same, State.unit_clearLens_same])
  have hloop : lengthLoop x n (t.clearLens x) =
      (lengthLoop x n (s.clearLens x)).mapState (State.withStale · x (t.clearLens x)) := by
    conv_lhs => rw [hstale]
    refine lengthLoop_withStale n fun hx => ?_
    obtain ⟨hused, hdecodes⟩ := hT hx
    subst hx
    exact ⟨hused ▸ hclear.2 .t, hdecodes⟩
  have hkept {u : State} (hu : (s.clearLens x).SectionTo x u) := hclear.withStale hu
  have hsection := lengthLoop_sectionTo (x := x) n (.refl (s.clearLens x))
  simp only [Function.update_idem] at hkept
  rw [hloop]
  generalize lengthLoop x n (s.clearLens x) = loop at hsection
  cases hsection with
  | ok hu =>
    have hbuild := buildTable_related (hkept hu)
    rw [Function.update_idem] at hbuild
    exact hbuild
  | ended hu =>
    obtain ⟨u, cause, hu, -, rfl⟩ := hu
    have hfaulted := ((hkept hu).faulted cause).unused
    rw [State.faulted_withStale] at hfaulted
    exact .ended hfaulted
  | stop e => exact .stop e

theorem sectionPart_related (h : s.Alike used t) (hT : x = .c → used .t = true ∧ (s.unit .t).decodes .t) :
    (sectionPart x s).Related (State.Alike fun _ => false) (State.Alike (Function.update used x true))
      (sectionPart x t) := by
  have hcount := h.consume x.countBits
  rw [sectionPart_eq, sectionPart_eq, h.peek]
  split_ifs
  · rw [constSection, constSection, getBits, getBits, hcount.peek]
    exact constTable_related _ (hcount.consume _)
  · exact .raise _ (hcount.faulted _).unused
  · exact lengthLoop_build_related (s := s.consume x.countBits) (t := t.consume x.countBits) _ hcount fun hx => by
      subst hx
      exact hT rfl

end

/-! ## The header (R192) -/

theorem blockHeader_related {s t : State} (h : s.Alike (fun _ => false) t) :
    (blockHeader s).Related (State.Alike fun _ => false) (State.Alike fun _ => true) (blockHeader t) := by
  refine (sectionPart_related (x := .t) h.blockCountPart nofun).bind (sectionPart_ensures .t _)
    fun _ s1 t1 h1 ⟨_, hdecodes⟩ => ?_
  refine (sectionPart_related (x := .c) h1 fun _ => ⟨rfl, hdecodes⟩).bind (sectionPart_ensures .c _)
    fun _ s2 t2 h2 _ => ?_
  refine (sectionPart_related (x := .p) h2 nofun).bind (sectionPart_ensures .p _) fun _ s3 t3 h3 _ => ?_
  refine .ok (h3.streaming.mono fun x _ => ?_)
  cases x <;> rfl

/-! ## The step -/

section
variable {s t : State}

theorem State.used_eq_true {x : Alphabet} (h : s.used x = true) : x ≠ .t ∧ s.phase = .streaming := by
  cases x with
  | t => cases h
  | c => exact ⟨nofun, of_decide_eq_true h⟩
  | p => exact ⟨nofun, of_decide_eq_true h⟩

theorem State.used_mono (h : t.phase = .streaming → s.phase = .streaming) (x : Alphabet) (hx : t.used x = true) :
    s.used x = true := by
  obtain ⟨hxt, hphase⟩ := State.used_eq_true hx
  cases x with
  | t => exact absurd rfl hxt
  | c => exact decide_eq_true (h hphase)
  | p => exact decide_eq_true (h hphase)

theorem State.TokenEnds.tables (h : s.TokenEnds t) : (∀ x, t.unit x = s.unit x) ∧ t.phase = s.phase := by
  cases h with
  | truncated place h _ _ =>
    obtain ⟨p, c, l, rfl, -⟩ := h
    exact ⟨fun x => by cases x <;> rfl, rfl⟩
  | finished h _ _ _ =>
    obtain ⟨p, c, l, rfl, -⟩ := h
    exact ⟨fun x => by cases x <;> rfl, rfl⟩
  | unwritten cell h hq _ =>
    obtain ⟨p, c, l, rfl, -⟩ := h
    rw [hq.ringAppended_frame]
    exact ⟨fun x => by cases x <;> rfl, rfl⟩

/-- Only LH5.HDR writes a table unit, and only it goes to Streaming. -/
theorem State.BlockTo.tables (h : s.BlockTo t) (hheader : s.codec = Config.codecLh5 → s.phase ≠ .blockHeader) :
    (∀ x, t.unit x = s.unit x) ∧ (t.phase = .streaming → s.phase = .streaming) := by
  cases h with
  | rests => exact ⟨fun _ => rfl, id⟩
  | finishes => exact ⟨fun x => by cases x <;> rfl, id⟩
  | header hs hphase => exact absurd hphase (hheader hs.codec)
  | headerRaises hs hphase => exact absurd hphase (hheader hs.codec)
  | symbol _ hphase hu hq _ =>
    obtain ⟨n, f, rfl, -⟩ := hu
    rw [State.endBlock_eq, hq.appended_frame]
    exact ⟨fun x => by cases x <;> rfl, fun _ => hphase⟩
  | symbolRaises _ hphase h =>
    obtain ⟨u, cause, ⟨n, f, rfl, -⟩, -, rfl⟩ := h
    exact ⟨fun x => by cases x <;> rfl, fun _ => hphase⟩
  | control _ _ h _ =>
    obtain ⟨p, c, l, rfl, -⟩ := h
    exact ⟨fun x => by cases x <;> rfl, id⟩
  | token _ _ hu hq _ =>
    obtain ⟨p, c, l, rfl, -⟩ := hu
    rw [hq.ringAppended_frame]
    exact ⟨fun x => by cases x <;> rfl, id⟩
  | tokenEnds _ h =>
    obtain ⟨hunits, hphase⟩ := h.tables
    exact ⟨hunits, hphase ▸ id⟩

theorem State.Alike.selection {used : Alphabet → Bool} (h : s.Alike used t) : t.selection = s.selection := by
  obtain ⟨ht, -⟩ := h
  rw [ht]
  rfl

/-- An operation that does not see the hidden fields, and writes no table unit. -/
theorem State.Alike.exists_next {r r' : Res Unit} {s' : State} (h : s.Alike s.used t)
    (hr : r' = r.mapState (State.withHidden · t)) (hnext : r.toOutcome = .next s') (hto : s.BlockTo s')
    (hheader : s.codec = Config.codecLh5 → s.phase ≠ .blockHeader) :
    ∃ t', r'.toOutcome = .next t' ∧ s'.Alike s'.used t' := by
  obtain ⟨-, hunits⟩ := h
  obtain ⟨hkept, hphase⟩ := hto.tables hheader
  refine ⟨s'.withHidden t, by rw [hr, Res.toOutcome_mapState hnext], rfl, fun x => ?_⟩
  rw [State.unit_withHidden, hkept x]
  exact (hunits x).mono (State.used_mono hphase x)

theorem blockStep_alike {s' : State} (h : s.Alike s.used t) (hdecode : s.tablesDecode) (hs : blockStep s = .next s') :
    ∃ t', blockStep t = .next t' ∧ s'.Alike s'.used t' := by
  have hto := blockStep_to hs
  have ⟨ht, hunits⟩ := h
  unfold blockStep at hs ⊢
  rw [h.selection]
  have hlzss (hcodec : s.codec = Config.codecLzss) : s.codec = Config.codecLh5 → s.phase ≠ .blockHeader := by
    rw [hcodec]
    nofun
  rcases s.selection_cases with ⟨-, e⟩ | ⟨-, -, -, e⟩ | ⟨-, -, -, hphase, e⟩ | ⟨hrun, -, -, hphase, e⟩ |
    ⟨-, hcodec, -, -, e⟩ | ⟨-, hcodec, -, -, -, e⟩ | ⟨-, hcodec, -, -, -, e⟩ | ⟨-, -, e⟩ <;> rw [e] at hs ⊢
  · obtain rfl := Host.Outcome.next.inj hs
    exact ⟨t, rfl, h⟩
  · obtain rfl := Host.Outcome.next.inj hs
    exact ⟨t.finish, rfl, h.finish⟩
  · obtain ⟨t', ht', ⟨-, h'⟩ | ⟨e, h'⟩⟩ := (blockHeader_related h.unused).exists_next hs
    · exact ⟨t', ht', h'.mono fun _ _ => rfl⟩
    · obtain ⟨u, cause, hu, -, rfl⟩ := (blockHeader_ensures s).of_ended e
      obtain ⟨n, k, a, b, c, rfl, -⟩ := hu
      refine ⟨t', ht', h'.mono fun x hx => ?_⟩
      obtain ⟨-, hstreaming⟩ := State.used_eq_true hx
      cases hphase.symm.trans hstreaming
  · have hinUse (x : Alphabet) (hx : x ≠ .t) : s.used x = true := by
      cases x with
      | t => exact absurd rfl hx
      | c => exact decide_eq_true hphase
      | p => exact decide_eq_true hphase
    obtain ⟨hdecC, hdecP⟩ := hdecode hrun hphase
    have hC := hunits .c
    have hP := hunits .p
    rw [hinUse .c nofun] at hC
    rw [hinUse .p nofun] at hP
    refine h.exists_next ?_ hs hto fun _ => by rw [hphase]; nofun
    conv_lhs => rw [ht]
    exact streamSymbol_withHidden hC hdecC hP hdecP
  · refine h.exists_next ?_ hs hto (hlzss hcodec)
    conv_lhs => rw [ht]
    exact controlByte_withHidden t s
  · refine h.exists_next ?_ hs hto (hlzss hcodec)
    conv_lhs => rw [ht]
    exact literalToken_withHidden t s
  · refine h.exists_next ?_ hs hto (hlzss hcodec)
    conv_lhs => rw [ht]
    exact matchToken_withHidden t s
  · cases hs

end

section
variable {s t : State}

/-- CMD.START writes every register of the job, and puts no table in use. -/
theorem jobStart_sameJob (hparams : s.params = t.params) (hcodec : s.codec = t.codec) (hinLen : s.inLen = t.inLen)
    (hsize : s.expandedSize = t.expandedSize) (hinn : s.inMem = t.inMem) :
    ({ s.jobStart with state := .run } : State).sameJob { t.jobStart with state := .run } :=
  ⟨hparams, hcodec, hinLen, hsize, rfl, rfl, rfl, rfl, rfl, rfl, rfl, rfl, rfl, rfl, rfl, rfl, hinn, rfl, rfl,
    ⟨rfl, rfl, nofun⟩, ⟨rfl, rfl, nofun⟩, ⟨rfl, rfl, nofun⟩⟩

theorem State.sameJob.faulted (h : s.sameJob t) (cause : Cause) : (s.faulted cause).sameJob (t.faulted cause) :=
  (State.sameJob_iff _ _).mpr (((s.sameJob_iff t).mp h).faulted cause)

theorem exec_cmdStart_sameJob {s' t' : State} (hs : s.state ≠ .run) (ht : t.state ≠ .run) (hcodec : s.codec = t.codec)
    (hstart : ({ s.jobStart with state := .run } : State).sameJob { t.jobStart with state := .run })
    (hs' : exec .cmdStart s = .next s') (ht' : exec .cmdStart t = .next t') : s'.sameJob t' := by
  have hlegal : t.codecLegal = s.codecLegal := by
    rw [State.codecLegal, ← hcodec]
    rfl
  rw [exec_cmdStart] at hs' ht'
  cases hc : s.codecLegal with
  | true =>
    rw [startJob_of_codecLegal hs hc] at hs'
    rw [startJob_of_codecLegal ht (hlegal.trans hc)] at ht'
    obtain rfl := Host.Outcome.next.inj hs'
    obtain rfl := Host.Outcome.next.inj ht'
    exact hstart
  | false =>
    rw [startJob_of_codecReserved hs hc] at hs'
    rw [startJob_of_codecReserved ht (hlegal.trans hc), ← hcodec] at ht'
    obtain rfl := Host.Outcome.next.inj hs'
    obtain rfl := Host.Outcome.next.inj ht'
    exact hstart.faulted _

end

/-- Settles O60: a step runs one and the same operation in both states, which reads only what they share. -/
theorem jobDependsOnItsInputsOnly : Obligations.JobDependsOnItsInputsOnly := by
  refine ⟨fun s t s' t' hs ht hparams hcodec hinLen hsize hinn =>
    exec_cmdStart_sameJob hs ht hcodec (jobStart_sameJob hparams hcodec hinLen hsize hinn),
    fun s t s' hdecode hsame hhost hhost' hs => ?_⟩
  rw [step_of_no_host hhost] at hs
  obtain ⟨t', ht', h⟩ := blockStep_alike ((s.sameJob_iff t).mp hsame) hdecode hs
  exact ⟨t', (step_of_no_host hhost').trans ht', (s'.sameJob_iff t').mpr h⟩

end Sys2Proof.Machine
end
